-- ==== Sys2Proof/Word.lean ====
section
/-! DEFINITION. The words of the block: bytes, 32-bit words, byte strings and 31-bit stream ids (R8, R10). -/

namespace Sys2Proof

/-- One byte of a stream (R50). -/
abbrev Byte := BitVec 8

/-- A 32-bit word; bit 0 is the least significant bit (R10). -/
abbrev Word := BitVec 32

/-- A byte string, first byte first (R10). -/
abbrev Bytes := List Byte

/-- A 31-bit stream id, the value of a word whose bit 31 is reserved (R8, R97). -/
abbrev StreamId := BitVec 31

end Sys2Proof
end

