-- ==== Sys2Proof/Config.lean ====
section
/-! DEFINITION. What is fixed for the machine: the protocol version, the parameters of R9, the zlib engines of R170 as
constants without a body, and the free values of the points the spec leaves open. -/

namespace Sys2Proof

/-- An opaque state of the DEFLATE engine (R21, R39). DESIGN CHOICE (log 2): a token that no rule reads; safe. -/
structure CState where
  token : Nat
  deriving DecidableEq, Repr, Inhabited

/-- An opaque state of the INFLATE engine (R30, R39). DESIGN CHOICE (log 2): a token that no rule reads; safe. -/
structure DState where
  token : Nat
  deriving DecidableEq, Repr, Inhabited

/-- The answer of INFLATE.feed (R170). -/
inductive FeedResult where
  /-- The new state, the bytes the input completes, and whether the stream stands at a flush boundary. -/
  | fed (ds : DState) (out : Bytes) (boundary : Bool)
  /-- ZERR(z); the label z is carried verbatim (R328). -/
  | zerr (z : Nat)
  deriving DecidableEq, Repr, Inhabited

/-- The engine interface of R170. Each operation is a function (P-FUN of R171). Whether DEFLATE.init fails is the draw
COMP_INIT_OK of R361, made by the outside action that constructs the block; `deflateInit` is the state it gives when it does
not fail (log 4). -/
structure Engine where
  deflateInit : Bytes → Nat → CState
  deflateBlock : CState → Bytes → CState × Bytes
  inflateInit : Bytes → DState
  inflateFeed : DState → Bytes → FeedResult
  deriving Inhabited

/-- Which banned set a decoded Headers frame is checked against (R161). -/
inductive HeadersParity where
  | convention
  | source
  deriving DecidableEq, Repr

namespace Config

/-- VERSION, the constant on emission (R8). -/
def version : BitVec 15 := 3

/-- The zlib engines: OPEN (R9, D27), so without a body (log 2). -/
opaque engine : Engine

/-- The bytes of the header dictionary before its terminal NUL: OPEN (R9, D28), so without a body (log 3). -/
opaque dictBody : Bytes

/-- DICT: its bytes are open, its last byte is NUL (R9, C7). -/
def dict : Bytes := dictBody ++ [0x00#8]

/-- LEVEL: OPEN (R9, D29), so without a body (log 3). -/
opaque level : Nat

/-- HEADERS_PARITY, the spec's value (R9, D7; log 8). -/
def headersParity : HeadersParity := .convention

/-- DATA_MAX_LEN, the spec's value (R9, D6; log 8). -/
def dataMaxLen : BitVec 24 := 0xFFFFFF#24

/-- FREE VALUE (log 9): the scratch buffer after the n-th write that ended BROKEN (R22, D48, U2). -/
opaque freeScratch : Nat → Bytes

/-- FREE VALUE (log 10): the decompressor's state after the n-th error inside a compressed block (R325, U3). -/
opaque freeInflater : Nat → DState

end Config

end Sys2Proof
end

