-- ==== Sys2Proof/Syntax.lean ====
section
/-! DEFINITION. The instructions: the ten rows of opcode_table.json, each with its two operand forms, the frame command that
WRITE_FRAME encodes (R101) and the common header that READ_FRAME has read (R110, R130). The fields of a command are the
host's integers, of any size; WellFormed says which fit (R102). -/

namespace Sys2Proof

/-- One entry of a HeaderList or HeaderMap (R150). -/
structure HeaderEntry where
  name : Bytes
  values : List Bytes
  deriving DecidableEq, Repr

/-- The encoder's input, an ordered list of entries (R150). -/
abbrev HeaderList := List HeaderEntry

/-- The decoder's output: a HeaderList with pairwise distinct lowercase names (R150). -/
abbrev HeaderMap := List HeaderEntry

/-- The version, frame_type and length a host may supply with a control command; the block never reads them (R101, R122). -/
structure HostHeader where
  version : Nat := 0
  frameType : Nat := 0
  length : Nat := 0
  deriving DecidableEq, Repr

/-- The operand of a SynStream WRITE_FRAME (R101). -/
structure SynStreamCmd where
  host : HostHeader := {}
  flags : Nat := 0
  streamId : Nat := 0
  associatedStreamId : Nat := 0
  priority : Nat := 0
  slot : Nat := 0
  headers : HeaderList := []
  deriving DecidableEq, Repr

/-- The operand of a SynReply WRITE_FRAME (R101). -/
structure SynReplyCmd where
  host : HostHeader := {}
  flags : Nat := 0
  streamId : Nat := 0
  headers : HeaderList := []
  deriving DecidableEq, Repr

/-- The operand of a RstStream WRITE_FRAME (R101). -/
structure RstStreamCmd where
  host : HostHeader := {}
  flags : Nat := 0
  streamId : Nat := 0
  status : Nat := 0
  deriving DecidableEq, Repr

/-- One entry of a Settings command (R101). -/
structure SettingsCmdEntry where
  flag : Nat := 0
  id : Nat := 0
  value : Nat := 0
  deriving DecidableEq, Repr

/-- The operand of a Settings WRITE_FRAME (R101). -/
structure SettingsCmd where
  host : HostHeader := {}
  flags : Nat := 0
  entries : List SettingsCmdEntry := []
  deriving DecidableEq, Repr

/-- The operand of a Ping WRITE_FRAME (R101). -/
structure PingCmd where
  host : HostHeader := {}
  flags : Nat := 0
  id : Nat := 0
  deriving DecidableEq, Repr

/-- The operand of a GoAway WRITE_FRAME (R101). -/
structure GoAwayCmd where
  host : HostHeader := {}
  flags : Nat := 0
  lastGoodStreamId : Nat := 0
  status : Nat := 0
  deriving DecidableEq, Repr

/-- The operand of a Headers WRITE_FRAME (R101). -/
structure HeadersCmd where
  host : HostHeader := {}
  flags : Nat := 0
  streamId : Nat := 0
  headers : HeaderList := []
  deriving DecidableEq, Repr

/-- The operand of a WindowUpdate WRITE_FRAME (R101). -/
structure WindowUpdateCmd where
  host : HostHeader := {}
  flags : Nat := 0
  streamId : Nat := 0
  deltaWindowSize : Nat := 0
  deriving DecidableEq, Repr

/-- The operand of a Data WRITE_FRAME (R101). -/
structure DataCmd where
  streamId : Nat := 0
  flags : Nat := 0
  data : Bytes := []
  deriving DecidableEq, Repr

/-- The operand of a WRITE_FRAME of another control kind, presented by its 16-bit discriminant (R102, R121). -/
structure UnknownCmd where
  host : HostHeader := {}
  kindCode : Nat := 0
  deriving DecidableEq, Repr

/-- What READ_FRAME has read of a control frame whose type selects one of the eight variants (R81, R82): the type is the
variant's discriminant. -/
structure ReadHeader where
  version : BitVec 15
  flags : BitVec 8
  length : BitVec 24
  deriving DecidableEq, Repr

/-- What READ_FRAME has read of a control frame of another type (R104, R131). -/
structure UnknownHeader where
  version : BitVec 15
  frameType : BitVec 16
  flags : BitVec 8
  length : BitVec 24
  deriving DecidableEq, Repr

/-- What READ_FRAME has read of a data frame (R83, R84). -/
structure DataHeader where
  streamId : StreamId
  flags : BitVec 8
  length : BitVec 24
  deriving DecidableEq, Repr

/-- The two operand forms of every instruction: the frame command of WRITE_FRAME and the header of READ_FRAME (log 1). -/
inductive Form (α β : Type) where
  | write (f : α)
  | read (h : β)
  deriving DecidableEq, Repr

/-- The instructions, one constructor per row of opcode_table.json (R100). -/
inductive Instr where
  | synStream (form : Form SynStreamCmd ReadHeader)
  | synReply (form : Form SynReplyCmd ReadHeader)
  | rstStream (form : Form RstStreamCmd ReadHeader)
  | settings (form : Form SettingsCmd ReadHeader)
  | ping (form : Form PingCmd ReadHeader)
  | goAway (form : Form GoAwayCmd ReadHeader)
  | headers (form : Form HeadersCmd ReadHeader)
  | windowUpdate (form : Form WindowUpdateCmd ReadHeader)
  | data (form : Form DataCmd DataHeader)
  | unknownControlType (form : Form UnknownCmd UnknownHeader)
  deriving DecidableEq, Repr

/-- A frame command as the host presents it at the write command port (R58, R101, R102). -/
inductive Command where
  | synStream (f : SynStreamCmd)
  | synReply (f : SynReplyCmd)
  | rstStream (f : RstStreamCmd)
  | settings (f : SettingsCmd)
  | ping (f : PingCmd)
  | goAway (f : GoAwayCmd)
  | headers (f : HeadersCmd)
  | windowUpdate (f : WindowUpdateCmd)
  | data (f : DataCmd)
  | control (f : UnknownCmd)
  deriving DecidableEq, Repr

/-- The eight control variants (R100). -/
inductive ControlKind where
  | synStream
  | synReply
  | rstStream
  | settings
  | ping
  | goAway
  | headers
  | windowUpdate
  deriving DecidableEq, Repr

end Sys2Proof
end

