-- ==== Sys2Proof/WellFormed.lean ====
section
/-! DEFINITION. Well-formedness of an instruction. For the command form: every field fits its width, and lists, names and
joined values are shorter than 2^32 (R102). For the header form: the type of an unknown control frame is one of R104. -/

namespace Sys2Proof

/-- `v` fits an unsigned field of `w` bits (R102). -/
def fits (w v : Nat) : Bool := decide (v < 2 ^ w)

/-- The length of the NUL-joined value list: the values and one NUL between two of them (R153). -/
def joinedLength (vs : List Bytes) : Nat := (vs.map List.length).sum + (vs.length - 1)

/-- The limits of R102 on one header entry. -/
def HeaderEntry.wellFormed (e : HeaderEntry) : Bool :=
  fits 32 e.name.length && fits 32 (joinedLength e.values)

/-- The limits of R102 on a HeaderList. -/
def headerListWellFormed (hl : HeaderList) : Bool :=
  fits 32 hl.length && hl.all HeaderEntry.wellFormed

def SynStreamCmd.wellFormed (f : SynStreamCmd) : Bool :=
  fits 8 f.flags && fits 32 f.streamId && fits 32 f.associatedStreamId && fits 3 f.priority && fits 8 f.slot
    && headerListWellFormed f.headers

def SynReplyCmd.wellFormed (f : SynReplyCmd) : Bool :=
  fits 8 f.flags && fits 32 f.streamId && headerListWellFormed f.headers

def RstStreamCmd.wellFormed (f : RstStreamCmd) : Bool :=
  fits 8 f.flags && fits 32 f.streamId && fits 32 f.status

def SettingsCmdEntry.wellFormed (e : SettingsCmdEntry) : Bool :=
  fits 8 e.flag && fits 24 e.id && fits 32 e.value

def SettingsCmd.wellFormed (f : SettingsCmd) : Bool :=
  fits 8 f.flags && fits 32 f.entries.length && f.entries.all SettingsCmdEntry.wellFormed

def PingCmd.wellFormed (f : PingCmd) : Bool :=
  fits 8 f.flags && fits 32 f.id

def GoAwayCmd.wellFormed (f : GoAwayCmd) : Bool :=
  fits 8 f.flags && fits 32 f.lastGoodStreamId && fits 32 f.status

def HeadersCmd.wellFormed (f : HeadersCmd) : Bool :=
  fits 8 f.flags && fits 32 f.streamId && headerListWellFormed f.headers

def WindowUpdateCmd.wellFormed (f : WindowUpdateCmd) : Bool :=
  fits 8 f.flags && fits 32 f.streamId && fits 32 f.deltaWindowSize

def DataCmd.wellFormed (f : DataCmd) : Bool :=
  fits 32 f.streamId && fits 8 f.flags

/-- The discriminants that select no variant: 0x0000, 0x0005 and 0x000A to 0xFFFF (R104). -/
def unknownType (t : Nat) : Bool := t == 0x0000 || t == 0x0005 || decide (0x000A ≤ t)

/-- A kind code is a 16-bit number (R102, U11), here one that selects no variant (log 17). -/
def UnknownCmd.wellFormed (f : UnknownCmd) : Bool :=
  fits 16 f.kindCode && unknownType f.kindCode

def UnknownHeader.wellFormed (h : UnknownHeader) : Bool :=
  unknownType h.frameType.toNat

/-- Well-formedness of an instruction in either operand form. -/
def Instr.wellFormed : Instr → Bool
  | .synStream (.write f) => f.wellFormed
  | .synStream (.read _) => true
  | .synReply (.write f) => f.wellFormed
  | .synReply (.read _) => true
  | .rstStream (.write f) => f.wellFormed
  | .rstStream (.read _) => true
  | .settings (.write f) => f.wellFormed
  | .settings (.read _) => true
  | .ping (.write f) => f.wellFormed
  | .ping (.read _) => true
  | .goAway (.write f) => f.wellFormed
  | .goAway (.read _) => true
  | .headers (.write f) => f.wellFormed
  | .headers (.read _) => true
  | .windowUpdate (.write f) => f.wellFormed
  | .windowUpdate (.read _) => true
  | .data (.write f) => f.wellFormed
  | .data (.read _) => true
  | .unknownControlType (.write f) => f.wellFormed
  | .unknownControlType (.read h) => h.wellFormed

end Sys2Proof
end

