-- ==== Sys2Proof/Decode.lean ====
section
/-! DEFINITION. The decoder of the common header and the encoder: big-endian bytes (R11), the packed fields (R81 to R98), the
choice of the variant (R85, R100, R104) and the frame images of the commands. -/

namespace Sys2Proof

/-! ## Bytes and words (R10, R11) -/

/-- be32: four bytes, most significant first (R11). -/
def be32 (v : Word) : Bytes :=
  [v.extractLsb' 24 8, v.extractLsb' 16 8, v.extractLsb' 8 8, v.extractLsb' 0 8]

/-- unbe32: b0<<24 | b1<<16 | b2<<8 | b3 (R11). -/
def unbe32 (b0 b1 b2 b3 : Byte) : Word :=
  b0.setWidth 32 <<< 24 ||| b1.setWidth 32 <<< 16 ||| b2.setWidth 32 <<< 8 ||| b3.setWidth 32

/-- The next byte of a byte string, and the rest. -/
def get8 : Bytes → Option (Byte × Bytes)
  | b :: rest => some (b, rest)
  | [] => none

/-- The next 32-bit word of a byte string, and the rest (R51). -/
def get32 : Bytes → Option (Word × Bytes)
  | b0 :: b1 :: b2 :: b3 :: rest => some (unbe32 b0 b1 b2 b3, rest)
  | _ => none

/-- The next `n` bytes of a byte string, and the rest. -/
def getBytes (n : Nat) (bs : Bytes) : Option (Bytes × Bytes) :=
  if n ≤ bs.length then some (bs.take n, bs.drop n) else none

/-! ## The common header (R81 to R84, R110) -/

/-- The 16-bit type that selects a control variant (R100). -/
def ControlKind.discriminant : ControlKind → BitVec 16
  | .synStream => 0x0001#16
  | .synReply => 0x0002#16
  | .rstStream => 0x0003#16
  | .settings => 0x0004#16
  | .ping => 0x0006#16
  | .goAway => 0x0007#16
  | .headers => 0x0008#16
  | .windowUpdate => 0x0009#16

/-- The control variant a 16-bit type selects; none for the types of R104. -/
def ControlKind.ofType (t : Nat) : Option ControlKind :=
  match t with
  | 0x0001 => some .synStream
  | 0x0002 => some .synReply
  | 0x0003 => some .rstStream
  | 0x0004 => some .settings
  | 0x0006 => some .ping
  | 0x0007 => some .goAway
  | 0x0008 => some .headers
  | 0x0009 => some .windowUpdate
  | _ => none

/-- The control bit C, w0[31] (R85). -/
def controlBit (w0 : Word) : Bool := w0.getLsbD 31

/-- The version field, w0[30:16] (R81). -/
def versionOf (w0 : Word) : BitVec 15 := w0.extractLsb' 16 15

/-- The frame_type field, w0[15:0] (R81). -/
def typeOf (w0 : Word) : BitVec 16 := w0.extractLsb' 0 16

/-- get31: the low 31 bits of a word (R97); also a data frame's stream id, w0[30:0] (R83). -/
def get31 (w : Word) : StreamId := w.extractLsb' 0 31

/-- put31: a word with its reserved bit cleared (R97). -/
def put31 (v : Word) : Word := v &&& 0x7FFFFFFF#32

/-- The flags field, w1[31:24] (R82). -/
def flagsOf (w1 : Word) : BitVec 8 := w1.extractLsb' 24 8

/-- The length field, w1[23:0] (R82). -/
def lengthOf (w1 : Word) : BitVec 24 := w1.extractLsb' 0 24

/-- The instruction of the two header words (R85, R100, R110). -/
def decodeHeader (w0 w1 : Word) : Instr :=
  if controlBit w0 then
    let h : ReadHeader := ⟨versionOf w0, flagsOf w1, lengthOf w1⟩
    match ControlKind.ofType (typeOf w0).toNat with
    | some .synStream => .synStream (.read h)
    | some .synReply => .synReply (.read h)
    | some .rstStream => .rstStream (.read h)
    | some .settings => .settings (.read h)
    | some .ping => .ping (.read h)
    | some .goAway => .goAway (.read h)
    | some .headers => .headers (.read h)
    | some .windowUpdate => .windowUpdate (.read h)
    | none => .unknownControlType (.read ⟨versionOf w0, typeOf w0, flagsOf w1, lengthOf w1⟩)
  else
    .data (.read ⟨get31 w0, flagsOf w1, lengthOf w1⟩)

/-- Why bytes are no common header: it is eight bytes long (R80). -/
inductive DecodeError where
  | firstWordShort
  | secondWordShort
  deriving DecidableEq, Repr

/-- The decoder: the instruction the next eight bytes select, and the bytes after them (R80, R130). -/
def decode (bs : Bytes) : Except DecodeError (Instr × Bytes) :=
  match get32 bs with
  | none => .error .firstWordShort
  | some (w0, rest) =>
    match get32 rest with
    | none => .error .secondWordShort
    | some (w1, rest') => .ok (decodeHeader w0 w1, rest')

/-- The number of whole 32-bit words that hold `nbits` bits, at least the two of the common header. -/
def tableWords (nbits : Nat) : Nat := max 2 ((nbits + 31) / 32)

/-- `n` words of the number `w`, the first its least significant, each laid out big-endian. -/
def wordsOf : Nat → Nat → Bytes
  | 0, _ => []
  | n + 1, w => be32 (BitVec.ofNat 32 w) ++ wordsOf n (w >>> 32)

/-- The bytes of an instruction whose bits are `w`, numbered as opcode_table.json numbers them: bit 0 is the least significant
bit of w0; the bits above `nbits` are 0 (log 22). -/
def tableBytes (nbits w : Nat) : Bytes := wordsOf (tableWords nbits) (w % 2 ^ nbits)

/-- What the decoder reads from an instruction whose bits are `w` (log 22). -/
def decodeTableWord (nbits w : Nat) : Option Instr :=
  match decode (tableBytes nbits w) with
  | .ok (i, _) => some i
  | .error _ => none

/-! ## The packed operand fields and the header block (R90, R96, R98, R151 to R153) -/

/-- A host integer as a 32-bit word. -/
def word (v : Nat) : Word := BitVec.ofNat 32 v

/-- A host integer as a byte, be8 (R11). -/
def byte (v : Nat) : Byte := BitVec.ofNat 8 v

/-- The priority byte: the priority in bits 7:5, bits 4:0 zero (R96). -/
def priorityByte (p : Nat) : Byte := byte p <<< 5

/-- The priority of a priority byte, its bits 7:5 (R96). -/
def priorityOf (b : Byte) : BitVec 3 := b.extractLsb' 5 3

/-- The word of a Settings entry, flag<<24 | id (R90). -/
def settingsWord (flag : BitVec 8) (id : BitVec 24) : Word := flag.setWidth 32 <<< 24 ||| id.setWidth 32

/-- lower on one byte: 0x41 to 0x5A become 0x61 to 0x7A (R152). -/
def lowerByte (b : Byte) : Byte := if 0x41#8 ≤ b ∧ b ≤ 0x5A#8 then b + 0x20#8 else b

/-- ASCII lowercasing (R152). -/
def lower (bs : Bytes) : Bytes := bs.map lowerByte

/-- join(values, 0x00) (R153). -/
def joinNul : List Bytes → Bytes
  | [] => []
  | [v] => v
  | v :: v' :: vs => v ++ 0x00#8 :: joinNul (v' :: vs)

/-- A byte string preceded by its 32-bit length (R98). -/
def lengthPrefixed (bs : Bytes) : Bytes := be32 (word bs.length) ++ bs

/-- One entry of an uncompressed header block: the lowercased name and the joined values (R98, R151). -/
def serializeEntry (e : HeaderEntry) : Bytes :=
  lengthPrefixed (lower e.name) ++ lengthPrefixed (joinNul e.values)

/-- HB_SERIALIZE: the uncompressed header block (R98, R151). -/
def hbSerialize (hl : HeaderList) : Bytes :=
  be32 (word hl.length) ++ hl.flatMap serializeEntry

/-! ## Frame images (R80, R86 to R95, R122, R123, R125) -/

/-- w0 of a control frame: 1<<31 | version<<16 | frame_type (R81). -/
def controlWord (version : BitVec 15) (type : BitVec 16) : Word :=
  0x80000000#32 ||| version.setWidth 32 <<< 16 ||| type.setWidth 32

/-- w1: flags<<24 | length (R82, R84). -/
def lengthWord (flags : BitVec 8) (length : BitVec 24) : Word := flags.setWidth 32 <<< 24 ||| length.setWidth 32

/-- The 8 bytes of a control frame's common header (R81, R82). -/
def controlHeaderBytes (version : BitVec 15) (type : BitVec 16) (flags : BitVec 8) (length : BitVec 24) : Bytes :=
  be32 (controlWord version type) ++ be32 (lengthWord flags length)

/-- The 8 bytes of a data frame's header: be32(stream_id) ‖ be32(flags<<24 | length) (R83, R84, R125). -/
def dataHeaderBytes (streamId : Word) (flags : BitVec 8) (length : BitVec 24) : Bytes :=
  be32 streamId ++ be32 (lengthWord flags length)

/-- The flags of an emitted control frame: 0 for Ping, GoAway and WindowUpdate, the command's otherwise (R122). -/
def fillFlags (k : ControlKind) (flags : BitVec 8) : BitVec 8 :=
  match k with
  | .ping | .goAway | .windowUpdate => 0
  | _ => flags

/-- The frame the encoder emits for a control variant and a payload: version 3, the variant's type, the filled flags, the
payload's length (R122, R123). -/
def controlFrame (k : ControlKind) (flags : BitVec 8) (payload : Bytes) : Bytes :=
  controlHeaderBytes Config.version k.discriminant (fillFlags k flags) (BitVec.ofNat 24 payload.length) ++ payload

/-- The frame the encoder emits for a Data command (R125). -/
def dataFrame (f : DataCmd) : Bytes :=
  dataHeaderBytes (word f.streamId) (byte f.flags) (BitVec.ofNat 24 f.data.length) ++ f.data

/-- The fixed fields of a SynStream, 10 bytes (R86, R205). -/
def SynStreamCmd.fixedFields (f : SynStreamCmd) : Bytes :=
  be32 (put31 (word f.streamId)) ++ be32 (put31 (word f.associatedStreamId)) ++ [priorityByte f.priority, byte f.slot]

/-- The fixed field of a SynReply, 4 bytes (R87, R210). -/
def SynReplyCmd.fixedFields (f : SynReplyCmd) : Bytes := be32 (put31 (word f.streamId))

/-- The fixed field of a Headers frame, 4 bytes (R93, R215). -/
def HeadersCmd.fixedFields (f : HeadersCmd) : Bytes := be32 (put31 (word f.streamId))

/-- The payload of a RstStream (R88, R240). -/
def RstStreamCmd.payload (f : RstStreamCmd) : Bytes := be32 (put31 (word f.streamId)) ++ be32 (word f.status)

/-- One entry of a Settings payload (R90, R245). -/
def SettingsCmdEntry.bytes (e : SettingsCmdEntry) : Bytes :=
  be32 (settingsWord (byte e.flag) (BitVec.ofNat 24 e.id)) ++ be32 (word e.value)

/-- The payload of a Settings frame (R89, R245). -/
def SettingsCmd.payload (f : SettingsCmd) : Bytes :=
  be32 (word f.entries.length) ++ f.entries.flatMap SettingsCmdEntry.bytes

/-- The payload of a Ping (R91, R250). -/
def PingCmd.payload (f : PingCmd) : Bytes := be32 (word f.id)

/-- The payload of a GoAway (R92, R255). -/
def GoAwayCmd.payload (f : GoAwayCmd) : Bytes := be32 (put31 (word f.lastGoodStreamId)) ++ be32 (word f.status)

/-- The payload of a WindowUpdate (R94, R260). -/
def WindowUpdateCmd.payload (f : WindowUpdateCmd) : Bytes :=
  be32 (put31 (word f.streamId)) ++ be32 (put31 (word f.deltaWindowSize))

/-- The 8 header bytes of a control variant as received (R81, R82). -/
def ReadHeader.bytes (k : ControlKind) (h : ReadHeader) : Bytes :=
  controlHeaderBytes h.version k.discriminant h.flags h.length

/-- The encoder. Of a header form: its 8 bytes. Of a command form: the frame it is emitted as when nothing is raised, a header
block in raw mode (R108, R173; log 24); an unknown kind emits nothing (R121). -/
def encode : Instr → Bytes
  | .synStream (.write f) => controlFrame .synStream (byte f.flags) (f.fixedFields ++ hbSerialize f.headers)
  | .synStream (.read h) => h.bytes .synStream
  | .synReply (.write f) => controlFrame .synReply (byte f.flags) (f.fixedFields ++ hbSerialize f.headers)
  | .synReply (.read h) => h.bytes .synReply
  | .rstStream (.write f) => controlFrame .rstStream (byte f.flags) f.payload
  | .rstStream (.read h) => h.bytes .rstStream
  | .settings (.write f) => controlFrame .settings (byte f.flags) f.payload
  | .settings (.read h) => h.bytes .settings
  | .ping (.write f) => controlFrame .ping (byte f.flags) f.payload
  | .ping (.read h) => h.bytes .ping
  | .goAway (.write f) => controlFrame .goAway (byte f.flags) f.payload
  | .goAway (.read h) => h.bytes .goAway
  | .headers (.write f) => controlFrame .headers (byte f.flags) (f.fixedFields ++ hbSerialize f.headers)
  | .headers (.read h) => h.bytes .headers
  | .windowUpdate (.write f) => controlFrame .windowUpdate (byte f.flags) f.payload
  | .windowUpdate (.read h) => h.bytes .windowUpdate
  | .data (.write f) => dataFrame f
  | .data (.read h) => dataHeaderBytes (h.streamId.setWidth 32) h.flags h.length
  | .unknownControlType (.write _) => []
  | .unknownControlType (.read h) => controlHeaderBytes h.version h.frameType h.flags h.length

/-- The header form of a control variant. -/
def ControlKind.readInstr (k : ControlKind) (h : ReadHeader) : Instr :=
  match k with
  | .synStream => .synStream (.read h)
  | .synReply => .synReply (.read h)
  | .rstStream => .rstStream (.read h)
  | .settings => .settings (.read h)
  | .ping => .ping (.read h)
  | .goAway => .goAway (.read h)
  | .headers => .headers (.read h)
  | .windowUpdate => .windowUpdate (.read h)

/-- The instruction is in the header form, the one a decoder can read. -/
def Instr.isRead : Instr → Bool
  | .synStream (.read _) | .synReply (.read _) | .rstStream (.read _) | .settings (.read _) | .ping (.read _)
  | .goAway (.read _) | .headers (.read _) | .windowUpdate (.read _) | .data (.read _) | .unknownControlType (.read _) => true
  | _ => false

/-! ## The write command port (R58, R102, R120) -/

/-- The instruction a frame command asks for: the variant its kind code selects (R120). A kind code that names a control variant
without giving its fields stands for that variant with every field zero (R13; log 17). -/
def Command.toInstr : Command → Instr
  | .synStream f => .synStream (.write f)
  | .synReply f => .synReply (.write f)
  | .rstStream f => .rstStream (.write f)
  | .settings f => .settings (.write f)
  | .ping f => .ping (.write f)
  | .goAway f => .goAway (.write f)
  | .headers f => .headers (.write f)
  | .windowUpdate f => .windowUpdate (.write f)
  | .data f => .data (.write f)
  | .control f =>
    match ControlKind.ofType f.kindCode with
    | some .synStream => .synStream (.write { host := f.host })
    | some .synReply => .synReply (.write { host := f.host })
    | some .rstStream => .rstStream (.write { host := f.host })
    | some .settings => .settings (.write { host := f.host })
    | some .ping => .ping (.write { host := f.host })
    | some .goAway => .goAway (.write { host := f.host })
    | some .headers => .headers (.write { host := f.host })
    | some .windowUpdate => .windowUpdate (.write { host := f.host })
    | none => .unknownControlType (.write f)

end Sys2Proof
end

