-- ==== Sys2Proof/Machine/State.lean ====
section
/-! DEFINITION. The state of the block as plain data (10_state.md), the ports it is bound to (20_memory.md), the records it
returns (R103, R321), the outside actions (R350, R352), and the state right after reset (R40, R360). -/

namespace Sys2Proof.Machine

/-- The two halves, the block's agents (R3). -/
inductive Half where
  | write
  | read
  deriving DecidableEq, Repr

/-- Why the machine stops with a fault. -/
inductive Fault where
  /-- BROKEN_HALF: raised by an operation on a half whose run state is BROKEN (R331). Safe: the spec itself gives the operation
  no meaning. -/
  | brokenHalf (h : Half)
  deriving DecidableEq, Repr

/-- Why an instruction or an outside action is refused. -/
inductive Refusal where
  /-- An instruction without a meaning in `exec`. Safe: the machine stops. -/
  | notModelled (mnemonic : String)
  /-- NOT_WELL_FORMED: raised by WRITE_FRAME for a command that is not well-formed (R102, R329). Safe: the spec refuses it. -/
  | notWellFormed
  /-- Raised by an outside action that overlaps an operation in progress (R58, R363, R370). Safe: the spec refuses it. -/
  | overlap
  /-- Raised by an operation or a release after the release (R363). Safe: the spec refuses it. -/
  | released
  /-- Raised by an operation when the constructor failed, so that no block exists (R361). Safe: the spec allows no such operation.
  Also raised by a release then, which the spec calls needless: the model's choice (log 31), unsafe. -/
  | noBlock
  deriving DecidableEq, Repr

/-- The run state of a half (R23, R33). -/
inductive Run where
  | ready
  | broken
  deriving DecidableEq, Repr

/-- The configuration record CFG, never written between resets (R20). -/
structure Cfg where
  nocomp : Bool
  dict : Bytes
  level : Nat
  headersParity : HeadersParity
  dataMaxLen : BitVec 24
  deriving DecidableEq, Repr

/-- What an IoError carries: the transport's own error, or the end of the source inside a frame (R320, R327). -/
inductive IoReason where
  | unexpectedEof
  | transport (e : Nat)
  deriving DecidableEq, Repr

/-- The status of a result (R320). The two diagnostics are no status: they are recorded, not raised. -/
inductive Status where
  | ok
  | wrongCompressedPayloadSize
  | unknownFrameType
  | invalidControlFrame
  | invalidDataFrame
  | invalidHeaderPresent
  | zeroStreamId
  | ioError (e : IoReason)
  | zlibError (z : Nat)
  | endOfStream
  deriving DecidableEq, Repr

/-- The kinds of recoverable diagnostics (R326). -/
inductive DiagKind where
  | unlowercasedHeaderName
  | duplicateHeaders
  deriving DecidableEq, Repr

/-- One entry of DIAG (R326). -/
structure Diagnostic where
  kind : DiagKind
  sid : StreamId
  deriving DecidableEq, Repr

/-- A control frame's common header: the record `cf` of a received frame (R103, R130) and the latch H of an emitted one
(R25). -/
structure ControlHeader where
  version : BitVec 15
  frameType : BitVec 16
  flags : BitVec 8
  length : BitVec 24
  deriving DecidableEq, Repr

/-- One entry of a Settings frame (R90). -/
structure SettingsEntry where
  flag : BitVec 8
  id : BitVec 24
  value : Word
  deriving DecidableEq, Repr

/-- A decoded frame (R103). A control frame's `flags` field is `cf.flags`. -/
inductive Frame where
  | synStream (cf : ControlHeader) (streamId associatedStreamId : StreamId) (priority : BitVec 3) (slot : Byte)
      (headers : HeaderMap)
  | synReply (cf : ControlHeader) (streamId : StreamId) (headers : HeaderMap)
  | rstStream (cf : ControlHeader) (streamId : StreamId) (status : Word)
  | settings (cf : ControlHeader) (entries : List SettingsEntry)
  | ping (cf : ControlHeader) (id : Word)
  | goAway (cf : ControlHeader) (lastGoodStreamId : StreamId) (status : Word)
  | headers (cf : ControlHeader) (streamId : StreamId) (headers : HeaderMap)
  | windowUpdate (cf : ControlHeader) (streamId deltaWindowSize : StreamId)
  | data (streamId : StreamId) (flags : BitVec 8) (data : Bytes)
  deriving DecidableEq, Repr

/-- WRESULT, what WRITE_FRAME returns (R321). -/
structure WResult where
  status : Status
  sid : StreamId
  deriving DecidableEq, Repr

/-- RRESULT, what READ_FRAME returns; the frame is present only when the status is OK (R321). -/
structure RResult where
  status : Status
  sid : StreamId
  frame : Option Frame
  diag : List Diagnostic
  deriving DecidableEq, Repr

/-- How the sink port answers the next writes (R54, U23): it accepts them; it accepts `room` more bytes and then reports the
transport error `e`; or it accepts `room` more bytes and then does not answer. The draw SINK_PREFIX of a failing write is
`room` (log 5). -/
inductive SinkPort where
  | accepts
  | failsAfter (room e : Nat)
  | silentAfter (room : Nat)
  deriving DecidableEq, Repr

/-- The sink (R50): the bytes it has accepted since reset, and how it answers. -/
structure Sink where
  accepted : Bytes
  port : SinkPort
  deriving DecidableEq, Repr

/-- What follows the source's bytes: the end of the stream, the transport error `e`, or nothing yet (R53, U23). -/
inductive SourceEnd where
  | eof
  | error (e : Nat)
  | silent
  deriving DecidableEq, Repr

/-- The source (R50, R63): the bytes still to be read, any bytes at all, and what follows them. -/
structure Source where
  bytes : Bytes
  ending : SourceEnd
  deriving DecidableEq, Repr

/-- The write half (R21 to R24) with its command port (R58) and its sink. -/
structure WriteHalf where
  /-- The compressor's state; none is ABSENT (R21). -/
  zc : Option CState
  scratch : Bytes
  run : Run
  sinkPos : Nat
  /-- The WRITE_FRAME in progress (R58). -/
  request : Option Command
  /-- The results returned, oldest first (R351). -/
  responses : List WResult
  sink : Sink
  /-- The model's own: how many free scratch values have been drawn (log 9). -/
  draws : Nat
  deriving DecidableEq, Repr

/-- The read half (R30 to R33) with its command port (R58) and its source. -/
structure ReadHalf where
  /-- The decompressor's state; none is ABSENT (R30). -/
  zd : Option DState
  fence : Word
  run : Run
  srcPos : Nat
  /-- A READ_FRAME is in progress (R58). -/
  request : Bool
  /-- The results returned, oldest first (R351). -/
  responses : List RResult
  source : Source
  /-- The model's own: how many free decompressor states have been drawn (log 10). -/
  draws : Nat
  deriving DecidableEq, Repr

/-- The life of the block (R360, R361, R363). -/
inductive Life where
  | live
  | initFailed
  | released
  deriving DecidableEq, Repr

/-- What RESET returns (R350, R361). -/
inductive ResetResult where
  | success
  | initError
  deriving DecidableEq, Repr

/-- What happens outside the block: the host's actions (R350) and what the peer and the transport do at the two ports (R352,
R53, R54). -/
inductive HostAction where
  /-- RESET(sink, source, nocomp) (R360), with the draw COMP_INIT_OK (R361; log 4). -/
  | reset (nocomp compInitOk : Bool) (port : SinkPort) (source : Source)
  /-- Issues WRITE_FRAME(f) (R58). -/
  | writeFrame (f : Command)
  /-- Issues READ_FRAME() (R58). -/
  | readFrame
  /-- Consumes n source bytes itself (R350, R372). -/
  | discard (n : Nat)
  /-- Releases the block (R363). -/
  | release
  /-- More bytes arrive at the source port, and what follows them (R53, R63). -/
  | sourceSupplies (bs : Bytes) (ending : SourceEnd)
  /-- The sink port's answers change (R54). -/
  | sinkBecomes (port : SinkPort)
  deriving DecidableEq, Repr

/-- Who moves in a step (R337; log 13). -/
inductive Agent where
  | half (h : Half)
  | host
  deriving DecidableEq, Repr

/-- The state of the machine. -/
structure State where
  cfg : Cfg
  wh : WriteHalf
  rh : ReadHalf
  life : Life
  resetResult : ResetResult
  /-- The model's own: what still happens outside, in order (log 14). -/
  host : List HostAction
  /-- The model's own: which agents move next, in order (log 13). -/
  turns : List Agent
  deriving DecidableEq, Repr

/-- CFG after RESET (R360): the argument nocomp and the parameters of R9. -/
def Cfg.atReset (nocomp : Bool) : Cfg :=
  { nocomp := nocomp, dict := Config.dict, level := Config.level, headersParity := Config.headersParity,
    dataMaxLen := Config.dataMaxLen }

/-- The state right after RESET(sink, source, nocomp = false) succeeded (R40, R360): the compressor initialized, both halves
READY, both positions 0. The arguments are DESIGN CHOICES (log 7): header compression on, a sink that accepts, a source that
has supplied nothing yet; unsafe. -/
def State.reset : State :=
  { cfg := Cfg.atReset false
    wh :=
      { zc := some (Config.engine.deflateInit Config.dict Config.level), scratch := [], run := .ready, sinkPos := 0,
        request := none, responses := [], sink := { accepted := [], port := .accepts }, draws := 0 }
    rh :=
      { zd := none, fence := 0, run := .ready, srcPos := 0, request := false, responses := [],
        source := { bytes := [], ending := .silent }, draws := 0 }
    life := .live
    resetResult := .success
    host := []
    turns := [] }

end Sys2Proof.Machine
end

