-- ==== Sys2Proof/Machine/Ops.lean ====
section
/-! DEFINITION. The named operations: SrcRead and READ (R53, R135), SinkWrite and the emission of a frame (R54, R123, R125), the
scratch primitives (R55), ending an operation with a result, which is all the block has of taking an exception (R321; there is
no return from one: R332), breaking a half (R330), and the two top-level operations around a variant's rule (R120, R130). -/

namespace Sys2Proof.Machine

/-! ## Results (R321) -/

/-- WRITE_FRAME ends: its result goes back to the host (R58, R321). -/
def WriteHalf.finish (wh : WriteHalf) (status : Status) (sid : StreamId) : WriteHalf :=
  { wh with request := none, responses := wh.responses ++ [⟨status, sid⟩] }

/-- READ_FRAME ends: its result goes back to the host (R58, R321). -/
def ReadHalf.finish (rh : ReadHalf) (r : RResult) : ReadHalf :=
  { rh with request := false, responses := rh.responses ++ [r] }

/-- `raise E(sid)` in the read half: no frame comes with an error (R12, R321). -/
def ReadHalf.raise (rh : ReadHalf) (status : Status) (sid : StreamId) (diag : List Diagnostic) : ReadHalf :=
  rh.finish ⟨status, sid, none, diag⟩

/-- `return frame` in the read half (R136). -/
def ReadHalf.returnFrame (rh : ReadHalf) (frame : Frame) (diag : List Diagnostic) : ReadHalf :=
  rh.finish ⟨.ok, 0, some frame, diag⟩

/-- WH.run <- BROKEN; the scratch buffer is then unspecified, a free value (R22, R330; log 9). -/
def WriteHalf.breakHalf (wh : WriteHalf) : WriteHalf :=
  { wh with run := .broken, scratch := Config.freeScratch wh.draws, draws := wh.draws + 1 }

/-- RH.run <- BROKEN (R330). -/
def ReadHalf.breakHalf (rh : ReadHalf) : ReadHalf := { rh with run := .broken }

/-- The decompressor's state after an error inside a block is unspecified, a free value (R325, U3; log 10). -/
def ReadHalf.spoilInflater (rh : ReadHalf) : ReadHalf :=
  { rh with zd := some (Config.freeInflater rh.draws), draws := rh.draws + 1 }

/-! ## The source (R53, R135) -/

/-- The source's bytes are consumed up to `rest`, and RH.src_pos advances by as many (R32, R53). -/
def ReadHalf.consumeTo (rh : ReadHalf) (rest : Bytes) : ReadHalf :=
  { rh with
    srcPos := rh.srcPos + (rh.source.bytes.length - rest.length)
    source := { rh.source with bytes := rest } }

/-- The outcomes of SrcRead (R53). `k` is how many bytes were consumed before the end or the error. -/
inductive SrcResult (α : Type) where
  | got (a : α) (rh : ReadHalf)
  | eof (k : Nat) (rh : ReadHalf)
  | ioerr (e k : Nat) (rh : ReadHalf)
  | waits

/-- SrcRead (R53), for any reader of a byte string's front: one that runs short has asked for more bytes than there are, and
all of them are consumed. A source that is silent does not answer (U23). -/
def srcRead {α : Type} (p : Bytes → Option (α × Bytes)) (rh : ReadHalf) : SrcResult α :=
  match p rh.source.bytes with
  | some (a, rest) => .got a (rh.consumeTo rest)
  | none =>
    match rh.source.ending with
    | .eof => .eof rh.source.bytes.length (rh.consumeTo [])
    | .error e => .ioerr e rh.source.bytes.length (rh.consumeTo [])
    | .silent => .waits

/-- READ, a source read inside a frame (R135): the end of the source and a transport error break the half. The answer is none
while the source does not answer (U23). -/
def read {α : Type} (p : Bytes → Option (α × Bytes)) (rh : ReadHalf) (k : α → ReadHalf → Option ReadHalf) :
    Option ReadHalf :=
  match srcRead p rh with
  | .got a rh' => k a rh'
  | .eof _ rh' => some (rh'.breakHalf.raise (.ioError .unexpectedEof) 0 [])
  | .ioerr e _ rh' => some (rh'.breakHalf.raise (.ioError (.transport e)) 0 [])
  | .waits => none

/-- The header read of READ_FRAME: two words, and the clean end of the source before the first byte (R130). -/
def readHeader (rh : ReadHalf) (k : ReadHalf → Option ReadHalf) : Option ReadHalf :=
  match srcRead get32 rh with
  | .got _ rh' => read get32 rh' fun _ rh'' => k rh''
  | .eof 0 rh' => some (rh'.raise .endOfStream 0 [])
  | .eof _ rh' => some (rh'.breakHalf.raise (.ioError .unexpectedEof) 0 [])
  | .ioerr e _ rh' => some (rh'.breakHalf.raise (.ioError (.transport e)) 0 [])
  | .waits => none

/-! ## The scratch buffer (R55) -/

/-- Scratch.append (R55). -/
def WriteHalf.scratchAppend (wh : WriteHalf) (bs : Bytes) : WriteHalf := { wh with scratch := wh.scratch ++ bs }

/-- Scratch.clear (R55). -/
def WriteHalf.scratchClear (wh : WriteHalf) : WriteHalf := { wh with scratch := [] }

/-! ## The sink (R54, R123, R125) -/

/-- The sink accepts `bs`, and WH.sink_pos advances by as many bytes (R24, R54). -/
def WriteHalf.accept (wh : WriteHalf) (bs : Bytes) (port : SinkPort) : WriteHalf :=
  { wh with sinkPos := wh.sinkPos + bs.length, sink := { accepted := wh.sink.accepted ++ bs, port := port } }

/-- The outcomes of SinkWrite (R54). -/
inductive SinkResult where
  | written (wh : WriteHalf)
  | ioerr (e : Nat) (wh : WriteHalf)
  | waits

/-- SinkWrite (R54). A port with room for fewer bytes than `bs` accepts that many, a proper part of `bs`, and then reports its
error, or does not answer (U23). -/
def sinkWrite (bs : Bytes) (wh : WriteHalf) : SinkResult :=
  match wh.sink.port with
  | .accepts => .written (wh.accept bs .accepts)
  | .failsAfter room e =>
    if bs.length ≤ room then .written (wh.accept bs (.failsAfter (room - bs.length) e))
    else .ioerr e (wh.accept (bs.take room) (.failsAfter 0 e))
  | .silentAfter room =>
    if bs.length ≤ room then .written (wh.accept bs (.silentAfter (room - bs.length)))
    else .waits

/-- Emission of a whole frame: one SinkWrite, then `after`, then OK; a transport error breaks the half (R123, R125). The answer
is none while the sink does not answer (U23). -/
def emit (bs : Bytes) (wh : WriteHalf) (after : WriteHalf → WriteHalf) : Option WriteHalf :=
  match sinkWrite bs wh with
  | .written wh' => some ((after wh').finish .ok 0)
  | .ioerr e wh' => some (wh'.breakHalf.finish (.ioError (.transport e)) 0)
  | .waits => none

/-- The largest payload a 24-bit length can give (R124). -/
def maxLength : Nat := 0xFFFFFF

/-- EMIT_CTRL (R123): the length check, the header fill of R122, the emission. -/
def emitCtrl (k : ControlKind) (flags : BitVec 8) (payload : Bytes) (sid : StreamId) (wh : WriteHalf)
    (after : WriteHalf → WriteHalf) : Option WriteHalf :=
  if payload.length > maxLength then some (wh.finish .invalidControlFrame sid)
  else emit (controlFrame k flags payload) wh after

/-! ## The two top-level operations (R120, R130) -/

/-- WRITE_FRAME around a variant's rule (R120): no operation on a block that is not live (R361, R363), the fault of a BROKEN
half (R331), the refusal of an ill-formed command (R329), then the rule. That the block's life comes before the BROKEN half is
the model's choice (log 30). While the sink does not answer, nothing changes (U23; log 12). -/
def writeFrame (wellFormed : Bool) (rule : WriteHalf → Option WriteHalf) (s : State) :
    Host.Outcome State Fault Refusal :=
  match s.life with
  | .initFailed => .refused .noBlock
  | .released => .refused .released
  | .live =>
    match s.wh.run with
    | .broken => .fault (.brokenHalf .write)
    | .ready =>
      if wellFormed then
        match rule s.wh with
        | some wh => .next { s with wh := wh }
        | none => .next s
      else .refused .notWellFormed

/-- READ_FRAME around a variant's rule (R130): no operation on a block that is not live (R361, R363), the fault of a BROKEN half
(R331), the header read, then the rule. That the block's life comes before the BROKEN half is the model's choice (log 30). While
the source does not answer, nothing changes (U23; log 12). -/
def readFrame (rule : ReadHalf → Option ReadHalf) (s : State) : Host.Outcome State Fault Refusal :=
  match s.life with
  | .initFailed => .refused .noBlock
  | .released => .refused .released
  | .live =>
    match s.rh.run with
    | .broken => .fault (.brokenHalf .read)
    | .ready =>
      match readHeader s.rh rule with
      | some rh => .next { s with rh := rh }
      | none => .next s

end Sys2Proof.Machine
end

