-- ==== Sys2Proof/Machine/Operands.lean ====
section
/-! DEFINITION. The operand forms of the decoder: 31-bit words (R97, R133), the record `cf` (R103, R130), the entries of a
Settings frame (R89, R90), the value split (R153), and the entries of a header block (R98, R154 to R156). -/

namespace Sys2Proof.Machine

/-- get31(unbe32(...)): the next 31-bit field (R97, R133). -/
def get31Word (bs : Bytes) : Option (StreamId × Bytes) :=
  match get32 bs with
  | some (w, rest) => some (get31 w, rest)
  | none => none

/-- The record `cf` of a received control frame (R103, R130). -/
def cfOf (k : ControlKind) (h : ReadHeader) : ControlHeader :=
  ⟨h.version, k.discriminant, h.flags, h.length⟩

/-- The masked stream id of a command (R322). -/
def maskedId (streamId : Nat) : StreamId := get31 (word streamId)

/-! ## Settings entries (R89, R90, R246) -/

/-- The next Settings entry: its word, flag ‖ id, and its value (R90, R246). -/
def getSettingsEntry (bs : Bytes) : Option (SettingsEntry × Bytes) :=
  match get32 bs with
  | none => none
  | some (w, rest) =>
    match get32 rest with
    | none => none
    | some (v, rest') => some (⟨w.extractLsb' 24 8, w.extractLsb' 0 24, v⟩, rest')

/-- The next `n` Settings entries, in wire order (R246). -/
def getSettingsEntries : Nat → Bytes → Option (List SettingsEntry × Bytes)
  | 0, bs => some ([], bs)
  | n + 1, bs =>
    match getSettingsEntry bs with
    | none => none
    | some (e, rest) =>
      match getSettingsEntries n rest with
      | none => none
      | some (es, rest') => some (e :: es, rest')

/-! ## Header-block entries (R98, R153, R154) -/

/-- split(bs, 0x00): `m` NUL bytes give `m + 1` pieces, in order (R153). -/
def splitNul : Bytes → List Bytes
  | [] => [[]]
  | b :: bs =>
    if b = 0x00#8 then [] :: splitNul bs
    else
      match splitNul bs with
      | [] => [[b]]
      | v :: vs => (b :: v) :: vs

/-- A 32-bit length and as many bytes (R98, R154). -/
def getCounted (bs : Bytes) : Option (Bytes × Bytes) :=
  match get32 bs with
  | none => none
  | some (n, rest) => getBytes n.toNat rest

/-- One entry of a header block as it stands on the wire: the name's bytes and the joined value's (R98, R154). -/
def getWireEntry (bs : Bytes) : Option ((Bytes × Bytes) × Bytes) :=
  match getCounted bs with
  | none => none
  | some (name, rest) =>
    match getCounted rest with
    | none => none
    | some (val, rest') => some ((name, val), rest')

/-- The next `n` entries of a header block (R154). -/
def getWireEntries : Nat → Bytes → Option (List (Bytes × Bytes) × Bytes)
  | 0, bs => some ([], bs)
  | n + 1, bs =>
    match getWireEntry bs with
    | none => none
    | some (e, rest) =>
      match getWireEntries n rest with
      | none => none
      | some (es, rest') => some (e :: es, rest')

/-- The map and the diagnostics of a block under construction (R154). -/
structure BlockAcc where
  map : HeaderMap
  diag : List Diagnostic
  deriving DecidableEq, Repr

/-- `lname` is a name of the map (R154). -/
def hasName (lname : Bytes) (m : HeaderMap) : Bool := m.any fun e => e.name == lname

/-- M[lname] <- M[lname] ++ vs (R154, R156). -/
def appendValues (lname : Bytes) (vs : List Bytes) (m : HeaderMap) : HeaderMap :=
  m.map fun e => if e.name = lname then { e with values := e.values ++ vs } else e

/-- The diagnostic of a name that is not lowercase (R155). -/
def caseDiag (sid : StreamId) (name : Bytes) : List Diagnostic :=
  if lower name = name then [] else [⟨.unlowercasedHeaderName, sid⟩]

/-- One turn of HB_PARSE's loop (R154 to R156): the case diagnostic, then a new name, or a duplicate's diagnostic and values. -/
def addEntry (sid : StreamId) (acc : BlockAcc) (e : Bytes × Bytes) : BlockAcc :=
  if hasName (lower e.1) acc.map then
    ⟨appendValues (lower e.1) (splitNul e.2) acc.map,
      acc.diag ++ caseDiag sid e.1 ++ [⟨.duplicateHeaders, sid⟩]⟩
  else
    ⟨acc.map ++ [⟨lower e.1, splitNul e.2⟩], acc.diag ++ caseDiag sid e.1⟩

/-- HB_PARSE(get, sid) on a byte string (R154): the map, the diagnostics and the bytes left; none when bytes run out. -/
def hbParse (sid : StreamId) (bs : Bytes) : Option (BlockAcc × Bytes) :=
  match get32 bs with
  | none => none
  | some (n, rest) =>
    match getWireEntries n.toNat rest with
    | none => none
    | some (es, rest') => some (es.foldl (addEntry sid) ⟨[], []⟩, rest')

end Sys2Proof.Machine
end

