-- ==== Sys2Proof/Machine/Flags.lean ====
section
/-! DEFINITION. The checks that read a flag, a length or a parity: the reserved flags of Ping, GoAway and WindowUpdate (R105,
R251, R256, R261), the wire length of GoAway and WindowUpdate, the banned sets and their selection (R160 to R162), the numeric
codes of R320 and FIN (R107). The flags of an emitted frame are `fillFlags` (R122). -/

namespace Sys2Proof.Machine

/-- FIN, the one flag value the spec names, of a data frame (R107). -/
def fin : BitVec 8 := 0x01#8

/-- A reserved flag is non-zero: Ping (R251). -/
def pingHeaderBad (h : ReadHeader) : Bool := h.flags != 0

/-- A reserved flag is non-zero or the wire length is not 8: GoAway (R256) and WindowUpdate (R261). -/
def fixedEightHeaderBad (h : ReadHeader) : Bool := h.flags != 0 || h.length != 8

/-- The banned sets (R160). -/
inductive BannedSet where
  | request
  | response
  deriving DecidableEq, Repr

/-- "connection" -/
def nameConnection : Bytes := [0x63#8, 0x6f#8, 0x6e#8, 0x6e#8, 0x65#8, 0x63#8, 0x74#8, 0x69#8, 0x6f#8, 0x6e#8]

/-- "host" -/
def nameHost : Bytes := [0x68#8, 0x6f#8, 0x73#8, 0x74#8]

/-- "keep-alive" -/
def nameKeepAlive : Bytes := [0x6b#8, 0x65#8, 0x65#8, 0x70#8, 0x2d#8, 0x61#8, 0x6c#8, 0x69#8, 0x76#8, 0x65#8]

/-- "proxy-connection" -/
def nameProxyConnection : Bytes :=
  [0x70#8, 0x72#8, 0x6f#8, 0x78#8, 0x79#8, 0x2d#8, 0x63#8, 0x6f#8, 0x6e#8, 0x6e#8, 0x65#8, 0x63#8, 0x74#8, 0x69#8, 0x6f#8,
    0x6e#8]

/-- "transfer-encoding" -/
def nameTransferEncoding : Bytes :=
  [0x74#8, 0x72#8, 0x61#8, 0x6e#8, 0x73#8, 0x66#8, 0x65#8, 0x72#8, 0x2d#8, 0x65#8, 0x6e#8, 0x63#8, 0x6f#8, 0x64#8, 0x69#8,
    0x6e#8, 0x67#8]

/-- REQUEST_SET and RESPONSE_SET (R160). -/
def BannedSet.names : BannedSet → List Bytes
  | .request => [nameConnection, nameHost, nameKeepAlive, nameProxyConnection, nameTransferEncoding]
  | .response => [nameConnection, nameKeepAlive, nameProxyConnection, nameTransferEncoding]

/-- The banned set of a Headers frame (R161): by the parity of the decoded stream id and CFG.headers_parity. -/
def headersBannedSet (parity : HeadersParity) (sid : StreamId) : BannedSet :=
  match parity, sid.getLsbD 0 with
  | .convention, true => .request
  | .convention, false => .response
  | .source, true => .response
  | .source, false => .request

/-- BANNED_CHECK: a name of the map is in the set (R162). -/
def hasBanned (set : BannedSet) (m : HeaderMap) : Bool := m.any fun e => set.names.contains e.name

/-- The numeric code of a status (R320, D31). -/
def Status.code : Status → Nat
  | .ok => 0
  | .wrongCompressedPayloadSize => 3
  | .unknownFrameType => 4
  | .invalidControlFrame => 5
  | .invalidDataFrame => 6
  | .invalidHeaderPresent => 7
  | .zeroStreamId => 8
  | .ioError _ => 9
  | .zlibError _ => 10
  | .endOfStream => 11

/-- The numeric code of a diagnostic's kind (R320, D31). -/
def DiagKind.code : DiagKind → Nat
  | .unlowercasedHeaderName => 1
  | .duplicateHeaders => 2

end Sys2Proof.Machine
end

