-- ==== Sys2Proof/Machine/DataFrame.lean ====
section
/-! DEFINITION. The data frame (R300 to R302). -/

namespace Sys2Proof.Machine

/-- WR_DATA(f) (R300): bit 31 of the stream id, then the length, then the zero check. -/
def wrData (cfg : Cfg) (f : DataCmd) (wh : WriteHalf) : Option WriteHalf :=
  if controlBit (word f.streamId) then some (wh.finish .invalidDataFrame (maskedId f.streamId))
  else if f.data.length > cfg.dataMaxLen.toNat then some (wh.finish .invalidDataFrame (maskedId f.streamId))
  else if word f.streamId = 0 then some (wh.finish .zeroStreamId 0)
  else emit (dataFrame f) wh id

/-- RD_DATA(sid, flags, length) (R301): the payload is consumed before the zero check. -/
def rdData (h : DataHeader) (rh : ReadHalf) : Option ReadHalf :=
  read (getBytes h.length.toNat) rh fun data rh =>
  some
    (if h.streamId = 0 then rh.raise .zeroStreamId 0 []
    else rh.returnFrame (.data h.streamId h.flags data) [])

/-- Data: both operand forms. -/
def execData (form : Form DataCmd DataHeader) (s : State) : Host.Outcome State Fault Refusal :=
  match form with
  | .write f => writeFrame f.wellFormed (wrData s.cfg f) s
  | .read h => readFrame (rdData h) s

end Sys2Proof.Machine
end

