-- ==== Sys2Proof/Machine/FixedFrames.lean ====
section
/-! DEFINITION. The fixed-layout control frames: RstStream (R240, R241), Settings (R245, R246), Ping (R250, R251), GoAway (R255,
R256) and WindowUpdate (R260, R261). Every decode consumes exactly its layout (R99) and makes its checks after that. -/

namespace Sys2Proof.Machine

/-- WR_RSTSTREAM(f) (R240): the status check comes first. -/
def wrRstStream (f : RstStreamCmd) (wh : WriteHalf) : Option WriteHalf :=
  if word f.status = 0 then some (wh.finish .invalidControlFrame (maskedId f.streamId))
  else if maskedId f.streamId = 0 then some (wh.finish .zeroStreamId 0)
  else emitCtrl .rstStream (byte f.flags) f.payload (maskedId f.streamId) wh id

/-- RD_RSTSTREAM(cf) (R241). -/
def rdRstStream (h : ReadHeader) (rh : ReadHalf) : Option ReadHalf :=
  read get31Word rh fun sid rh =>
  read get32 rh fun status rh =>
  some
    (if status = 0 then rh.raise .invalidControlFrame sid []
    else if sid = 0 then rh.raise .zeroStreamId 0 []
    else rh.returnFrame (.rstStream (cfOf .rstStream h) sid status) [])

/-- RstStream: both operand forms. -/
def execRstStream (form : Form RstStreamCmd ReadHeader) (s : State) : Host.Outcome State Fault Refusal :=
  match form with
  | .write f => writeFrame f.wellFormed (wrRstStream f) s
  | .read h => readFrame (rdRstStream h) s

/-- WR_SETTINGS(f) (R245): the size check of 4 + 8·n is the length check of EMIT_CTRL (R123, R124). -/
def wrSettings (f : SettingsCmd) (wh : WriteHalf) : Option WriteHalf :=
  if 4 + 8 * f.entries.length > maxLength then some (wh.finish .invalidControlFrame 0)
  else emitCtrl .settings (byte f.flags) f.payload 0 wh id

/-- RD_SETTINGS(cf) (R246): the count says how many entries are read; the length is not compared with it. -/
def rdSettings (h : ReadHeader) (rh : ReadHalf) : Option ReadHalf :=
  read get32 rh fun n rh =>
  read (getSettingsEntries n.toNat) rh fun entries rh =>
  some (rh.returnFrame (.settings (cfOf .settings h) entries) [])

/-- Settings: both operand forms. -/
def execSettings (form : Form SettingsCmd ReadHeader) (s : State) : Host.Outcome State Fault Refusal :=
  match form with
  | .write f => writeFrame f.wellFormed (wrSettings f) s
  | .read h => readFrame (rdSettings h) s

/-- WR_PING(f) (R250): the command's flags are ignored. -/
def wrPing (f : PingCmd) (wh : WriteHalf) : Option WriteHalf :=
  if word f.id = 0 then some (wh.finish .zeroStreamId 0)
  else emitCtrl .ping (byte f.flags) f.payload 0 wh id

/-- RD_PING(cf) (R251): the flags check comes before the zero check. -/
def rdPing (h : ReadHeader) (rh : ReadHalf) : Option ReadHalf :=
  read get32 rh fun id rh =>
  some
    (if pingHeaderBad h then rh.raise .invalidControlFrame 0 []
    else if id = 0 then rh.raise .zeroStreamId 0 []
    else rh.returnFrame (.ping (cfOf .ping h) id) [])

/-- Ping: both operand forms. -/
def execPing (form : Form PingCmd ReadHeader) (s : State) : Host.Outcome State Fault Refusal :=
  match form with
  | .write f => writeFrame f.wellFormed (wrPing f) s
  | .read h => readFrame (rdPing h) s

/-- WR_GOAWAY(f) (R255): no field is checked, the command's flags are ignored. -/
def wrGoAway (f : GoAwayCmd) (wh : WriteHalf) : Option WriteHalf :=
  emitCtrl .goAway (byte f.flags) f.payload 0 wh id

/-- RD_GOAWAY(cf) (R256). -/
def rdGoAway (h : ReadHeader) (rh : ReadHalf) : Option ReadHalf :=
  read get31Word rh fun lastGood rh =>
  read get32 rh fun status rh =>
  some
    (if fixedEightHeaderBad h then rh.raise .invalidControlFrame 0 []
    else rh.returnFrame (.goAway (cfOf .goAway h) lastGood status) [])

/-- GoAway: both operand forms. -/
def execGoAway (form : Form GoAwayCmd ReadHeader) (s : State) : Host.Outcome State Fault Refusal :=
  match form with
  | .write f => writeFrame f.wellFormed (wrGoAway f) s
  | .read h => readFrame (rdGoAway h) s

/-- WR_WINDOWUPDATE(f) (R260): the command's flags are ignored, both words are masked. -/
def wrWindowUpdate (f : WindowUpdateCmd) (wh : WriteHalf) : Option WriteHalf :=
  if maskedId f.streamId = 0 then some (wh.finish .zeroStreamId 0)
  else emitCtrl .windowUpdate (byte f.flags) f.payload (maskedId f.streamId) wh id

/-- RD_WINDOWUPDATE(cf) (R261): the flags and length check comes before the zero check. -/
def rdWindowUpdate (h : ReadHeader) (rh : ReadHalf) : Option ReadHalf :=
  read get31Word rh fun sid rh =>
  read get31Word rh fun delta rh =>
  some
    (if fixedEightHeaderBad h then rh.raise .invalidControlFrame sid []
    else if sid = 0 then rh.raise .zeroStreamId 0 []
    else rh.returnFrame (.windowUpdate (cfOf .windowUpdate h) sid delta) [])

/-- WindowUpdate: both operand forms. -/
def execWindowUpdate (form : Form WindowUpdateCmd ReadHeader) (s : State) : Host.Outcome State Fault Refusal :=
  match form with
  | .write f => writeFrame f.wellFormed (wrWindowUpdate f) s
  | .read h => readFrame (rdWindowUpdate h) s

end Sys2Proof.Machine
end

