-- ==== Sys2Proof/Machine/HeaderBlock.lean ====
section
/-! DEFINITION. The compressor dispatcher: HB_ENCODE (R172, R173), the tail of every header-bearing encode (R200), HB_DECODE with
the lazy decompressor, the fence and its exactness check (R175 to R178), the length precondition (R201), and the end of every
header-bearing decode (R158, R162, R324). The engines are an argument, so that a statement can be made about any of them; the
machine takes Config.engine. -/

namespace Sys2Proof.Machine

/-! ## Encode (R172, R173, R200) -/

/-- The compressor's state. ABSENT in compressed mode is reached by no run (log 20); the value it would then have is the one it
is initialized with. -/
def compressor (eng : Engine) (cfg : Cfg) (wh : WriteHalf) : CState :=
  match wh.zc with
  | some cs => cs
  | none => eng.deflateInit cfg.dict cfg.level

/-- HB_ENCODE(hl): into the scratch buffer, raw (R173), or through the compressor with its SYNC_FLUSH (R172). -/
def hbEncode (eng : Engine) (cfg : Cfg) (hl : HeaderList) (wh : WriteHalf) : WriteHalf :=
  if cfg.nocomp then wh.scratchAppend (hbSerialize hl)
  else
    let r := eng.deflateBlock (compressor eng cfg wh) (hbSerialize hl)
    { wh with zc := some r.1 }.scratchAppend r.2

/-- HB_WRITE(T, prefix, hl, sid, flags) (R200): encode the block, check the length (R124), emit, clear the scratch buffer
(R174). An over-long frame breaks the half in compressed mode only (R330 rows W2, W3). -/
def hbWrite (eng : Engine) (cfg : Cfg) (k : ControlKind) (fixed : Bytes) (hl : HeaderList) (sid : StreamId)
    (flags : BitVec 8) (wh : WriteHalf) : Option WriteHalf :=
  let wh' := hbEncode eng cfg hl wh
  if (fixed ++ wh'.scratch).length > maxLength then
    some ((if cfg.nocomp then wh'.scratchClear else wh'.breakHalf).finish .invalidControlFrame sid)
  else emitCtrl k flags (fixed ++ wh'.scratch) sid wh' WriteHalf.scratchClear

/-! ## Decode (R175 to R178, R201) -/

/-- The decompressor's state, created at the first use (R176). -/
def inflater (eng : Engine) (cfg : Cfg) (rh : ReadHalf) : DState :=
  match rh.zd with
  | some ds => ds
  | none => eng.inflateInit cfg.dict

/-- The lazy creation of the decompressor and the loading of the fence with `L` (R176, R177). -/
def openFence (eng : Engine) (cfg : Cfg) (L : Nat) (rh : ReadHalf) : ReadHalf :=
  { rh with zd := some (inflater eng cfg rh), fence := BitVec.ofNat 32 L }

/-- HB_DECODE_Z(L, sid) (R177): `done` receives the map, the diagnostics and the read half. A decode that stops short inside the
fence leaves the fence at the bytes not read (R31, R177; log 11). Every error inside the block leaves the decompressor
unspecified, a free value (R325, U3; log 10). -/
def hbDecodeZ (eng : Engine) (cfg : Cfg) (L : Nat) (sid : StreamId) (rh : ReadHalf)
    (done : BlockAcc → ReadHalf → ReadHalf) : Option ReadHalf :=
  match srcRead (getBytes L) (openFence eng cfg L rh) with
  | .waits => none
  | .eof k rh' =>
    some ({ rh' with fence := BitVec.ofNat 32 (L - k) }.spoilInflater.breakHalf.raise .wrongCompressedPayloadSize 0 [])
  | .ioerr e k rh' =>
    some ({ rh' with fence := BitVec.ofNat 32 (L - k) }.spoilInflater.breakHalf.raise (.ioError (.transport e)) 0 [])
  | .got c rh' =>
    match eng.inflateFeed (inflater eng cfg rh) c with
    | .zerr z => some ({ rh' with fence := 0 }.spoilInflater.breakHalf.raise (.zlibError z) 0 [])
    | .fed ds out boundary =>
      match hbParse sid out with
      | none =>
        some ({ rh' with fence := 0 }.spoilInflater.breakHalf.raise .wrongCompressedPayloadSize 0 [])
      | some (acc, rest) =>
        if rest = [] ∧ boundary = true then some (done acc { rh' with fence := 0, zd := some ds })
        else some ({ rh' with fence := 0 }.spoilInflater.breakHalf.raise .wrongCompressedPayloadSize 0 [])

/-- HB_DECODE_RAW(sid) (R178): the block ends where its own counts say; the frame's length is not read. -/
def hbDecodeRaw (sid : StreamId) (rh : ReadHalf) (done : BlockAcc → ReadHalf → ReadHalf) : Option ReadHalf :=
  read (hbParse sid) rh fun acc rh' => some (done acc rh')

/-- HB_DECODE(length, prefix, sid) (R175). -/
def hbDecode (eng : Engine) (cfg : Cfg) (length fixed : Nat) (sid : StreamId) (rh : ReadHalf)
    (done : BlockAcc → ReadHalf → ReadHalf) : Option ReadHalf :=
  if cfg.nocomp then hbDecodeRaw sid rh done else hbDecodeZ eng cfg (length - fixed) sid rh done

/-- The length precondition of a header-bearing decode, in compressed mode only (R201). -/
def lengthTooSmall (cfg : Cfg) (h : ReadHeader) (fixed : Nat) : Bool :=
  !cfg.nocomp && decide (h.length.toNat < fixed)

/-- The result of R201: InvalidControlFrame(0) and a BROKEN half. -/
def raiseTooSmall (rh : ReadHalf) : ReadHalf := rh.breakHalf.raise .invalidControlFrame 0 []

/-- The checks after the block, in the order of R324, items 8 and 9, with the block's diagnostics (R158, R162). -/
def finishHeaders (set : BannedSet) (sid : StreamId) (frame : HeaderMap → Frame) (acc : BlockAcc) (rh : ReadHalf) :
    ReadHalf :=
  if hasBanned set acc.map then rh.raise .invalidHeaderPresent sid acc.diag
  else if sid = 0 then rh.raise .zeroStreamId 0 acc.diag
  else rh.returnFrame (frame acc.map) acc.diag

end Sys2Proof.Machine
end

