-- ==== Sys2Proof/Machine/HeaderFrames.lean ====
section
/-! DEFINITION. The header-bearing control frames: SynStream (R205, R206), SynReply (R210, R211) and Headers (R215, R216). -/

namespace Sys2Proof.Machine

/-- WR_SYNSTREAM(f) (R205). -/
def wrSynStream (eng : Engine) (cfg : Cfg) (f : SynStreamCmd) (wh : WriteHalf) : Option WriteHalf :=
  if maskedId f.streamId = 0 then some (wh.finish .zeroStreamId 0)
  else hbWrite eng cfg .synStream f.fixedFields f.headers (maskedId f.streamId) (byte f.flags) wh

/-- RD_SYNSTREAM(cf) (R206). -/
def rdSynStream (eng : Engine) (cfg : Cfg) (h : ReadHeader) (rh : ReadHalf) : Option ReadHalf :=
  if lengthTooSmall cfg h 10 then some (raiseTooSmall rh)
  else
    read get31Word rh fun sid rh =>
    read get31Word rh fun assoc rh =>
    read get8 rh fun pb rh =>
    read get8 rh fun slot rh =>
    hbDecode eng cfg h.length.toNat 10 sid rh
      (finishHeaders .request sid (.synStream (cfOf .synStream h) sid assoc (priorityOf pb) slot))

/-- SynStream: both operand forms. -/
def execSynStream (form : Form SynStreamCmd ReadHeader) (s : State) : Host.Outcome State Fault Refusal :=
  match form with
  | .write f => writeFrame f.wellFormed (wrSynStream Config.engine s.cfg f) s
  | .read h => readFrame (rdSynStream Config.engine s.cfg h) s

/-- WR_SYNREPLY(f) (R210). -/
def wrSynReply (eng : Engine) (cfg : Cfg) (f : SynReplyCmd) (wh : WriteHalf) : Option WriteHalf :=
  if maskedId f.streamId = 0 then some (wh.finish .zeroStreamId 0)
  else hbWrite eng cfg .synReply f.fixedFields f.headers (maskedId f.streamId) (byte f.flags) wh

/-- RD_SYNREPLY(cf) (R211). -/
def rdSynReply (eng : Engine) (cfg : Cfg) (h : ReadHeader) (rh : ReadHalf) : Option ReadHalf :=
  if lengthTooSmall cfg h 4 then some (raiseTooSmall rh)
  else
    read get31Word rh fun sid rh =>
    hbDecode eng cfg h.length.toNat 4 sid rh (finishHeaders .response sid (.synReply (cfOf .synReply h) sid))

/-- SynReply: both operand forms. -/
def execSynReply (form : Form SynReplyCmd ReadHeader) (s : State) : Host.Outcome State Fault Refusal :=
  match form with
  | .write f => writeFrame f.wellFormed (wrSynReply Config.engine s.cfg f) s
  | .read h => readFrame (rdSynReply Config.engine s.cfg h) s

/-- WR_HEADERS(f) (R215). -/
def wrHeaders (eng : Engine) (cfg : Cfg) (f : HeadersCmd) (wh : WriteHalf) : Option WriteHalf :=
  if maskedId f.streamId = 0 then some (wh.finish .zeroStreamId 0)
  else hbWrite eng cfg .headers f.fixedFields f.headers (maskedId f.streamId) (byte f.flags) wh

/-- RD_HEADERS(cf) (R216): the banned set by the parity of the stream id (R161). -/
def rdHeaders (eng : Engine) (cfg : Cfg) (h : ReadHeader) (rh : ReadHalf) : Option ReadHalf :=
  if lengthTooSmall cfg h 4 then some (raiseTooSmall rh)
  else
    read get31Word rh fun sid rh =>
    hbDecode eng cfg h.length.toNat 4 sid rh
      (finishHeaders (headersBannedSet cfg.headersParity sid) sid (.headers (cfOf .headers h) sid))

/-- Headers: both operand forms. -/
def execHeaders (form : Form HeadersCmd ReadHeader) (s : State) : Host.Outcome State Fault Refusal :=
  match form with
  | .write f => writeFrame f.wellFormed (wrHeaders Config.engine s.cfg f) s
  | .read h => readFrame (rdHeaders Config.engine s.cfg h) s

end Sys2Proof.Machine
end

