-- ==== Sys2Proof/Machine/UnknownFrame.lean ====
section
/-! DEFINITION. The control types that select no variant (R104): UnknownFrameType on encode (R121), InvalidControlFrame on decode
(R131). -/

namespace Sys2Proof.Machine

/-- WRITE_FRAME of a kind outside the nine: UnknownFrameType(0), nothing emitted (R121). -/
def wrUnknown (_f : UnknownCmd) (wh : WriteHalf) : Option WriteHalf := some (wh.finish .unknownFrameType 0)

/-- READ_FRAME of an unknown type: InvalidControlFrame(0) with only the header consumed (R131). -/
def rdUnknown (_h : UnknownHeader) (rh : ReadHalf) : Option ReadHalf := some (rh.raise .invalidControlFrame 0 [])

/-- The unknown control types: both operand forms. -/
def execUnknownControlType (form : Form UnknownCmd UnknownHeader) (s : State) : Host.Outcome State Fault Refusal :=
  match form with
  | .write f => writeFrame f.wellFormed (wrUnknown f) s
  | .read h => readFrame (rdUnknown h) s

end Sys2Proof.Machine
end

