-- ==== Sys2Proof/Machine/Dispatch.lean ====
section
/-! DEFINITION. The dispatch over the ten rows of opcode_table.json (R120, R130, R131). -/

namespace Sys2Proof.Machine

def exec (i : Instr) (s : State) : Host.Outcome State Fault Refusal :=
  match i with
  | .synStream form => Sys2Proof.Machine.execSynStream form s
  | .synReply form => Sys2Proof.Machine.execSynReply form s
  | .rstStream form => Sys2Proof.Machine.execRstStream form s
  | .settings form => Sys2Proof.Machine.execSettings form s
  | .ping form => Sys2Proof.Machine.execPing form s
  | .goAway form => Sys2Proof.Machine.execGoAway form s
  | .headers form => Sys2Proof.Machine.execHeaders form s
  | .windowUpdate form => Sys2Proof.Machine.execWindowUpdate form s
  | .data form => Sys2Proof.Machine.execData form s
  | .unknownControlType form => Sys2Proof.Machine.execUnknownControlType form s

end Sys2Proof.Machine
end

