-- ==== Sys2Proof/Machine/HostPort.lean ====
section
/-! DEFINITION. The outside actions: RESET (R360, R361), the command ports (R58, R370), DISCARD (R350, R372), release (R363), and
what the peer and the transport do at the source and the sink (R352). -/

namespace Sys2Proof.Machine

/-- The write half right after RESET (R40, R360). The model's own counter of free values runs on. -/
def WriteHalf.construct (zc : Option CState) (port : SinkPort) (draws : Nat) : WriteHalf :=
  { zc := zc, scratch := [], run := .ready, sinkPos := 0, request := none, responses := [],
    sink := { accepted := [], port := port }, draws := draws }

/-- The read half right after RESET (R40, R360). The model's own counter of free values runs on. -/
def ReadHalf.construct (source : Source) (draws : Nat) : ReadHalf :=
  { zd := none, fence := 0, run := .ready, srcPos := 0, request := false, responses := [], source := source,
    draws := draws }

/-- RESET(sink, source, nocomp) (R360): no compressor in raw mode; in compressed mode DEFLATE.init, which fails when the draw
COMP_INIT_OK is false, and then no block exists (R361). The model's choice (log 32): what the half registers hold then, which the spec does not
say, is what a raw-mode construction leaves, no engine among it; only `life` and `resetResult` tell the two apart. -/
def construct (nocomp compInitOk : Bool) (port : SinkPort) (source : Source) (s : State) : State :=
  let ok := nocomp || compInitOk
  let zc := if nocomp then none else some (Config.engine.deflateInit Config.dict Config.level)
  { s with
    cfg := Cfg.atReset nocomp
    wh := WriteHalf.construct (if ok then zc else none) port s.wh.draws
    rh := ReadHalf.construct source s.rh.draws
    life := if ok then .live else .initFailed
    resetResult := if ok then .success else .initError }

/-- An operation is in progress on a half (R58). -/
def State.busy (s : State) : Bool := s.wh.request.isSome || s.rh.request

/-- Release frees the engines and the scratch buffer and writes nothing to the sink (R363). -/
def releaseBlock (s : State) : State :=
  { s with
    life := .released
    wh := { s.wh with zc := none, scratch := [] }
    rh := { s.rh with zd := none } }

/-- DISCARD(n): the host consumes `n` source bytes (R350). From a source that ends, or fails with a transport error, before `n`
bytes it consumes the bytes there are, and the error is reported nowhere; from one that falls silent it consumes nothing yet. All
three are the model's choice (log 15). -/
def discardBytes (n : Nat) (rh : ReadHalf) : Option ReadHalf :=
  match srcRead (getBytes n) rh with
  | .got _ rh' => some rh'
  | .eof _ rh' => some rh'
  | .ioerr _ _ rh' => some rh'
  | .waits => none

/-- One outside action on the block; `s` still lists it. The model's choices: that a release is refused when there is no block to
release (log 31), that a port latches a request whatever the block's life (log 14), that RESET constructs anew whatever stood there
before (log 16), and that a DISCARD that waits stays at the head of the list, so that no later action of the host, the peer or the
transport happens meanwhile (log 15). -/
def hostAction (a : HostAction) (rest : List HostAction) (s : State) : Host.Outcome State Fault Refusal :=
  match a with
  | .reset nocomp compInitOk port source =>
    if s.busy then .refused .overlap
    else .next { construct nocomp compInitOk port source s with host := rest }
  | .writeFrame f =>
    if s.wh.request.isSome then .refused .overlap
    else .next { s with wh := { s.wh with request := some f }, host := rest }
  | .readFrame =>
    if s.rh.request then .refused .overlap
    else .next { s with rh := { s.rh with request := true }, host := rest }
  | .discard n =>
    if s.rh.request then .refused .overlap
    else
      match discardBytes n s.rh with
      | some rh => .next { s with rh := rh, host := rest }
      | none => .next s
  | .release =>
    match s.life with
    | .initFailed => .refused .noBlock
    | .released => .refused .released
    | .live =>
      if s.busy then .refused .overlap
      else .next { releaseBlock s with host := rest }
  | .sourceSupplies bs ending =>
    .next
      { s with
        rh := { s.rh with source := { bytes := s.rh.source.bytes ++ bs, ending := ending } }
        host := rest }
  | .sinkBecomes port =>
    .next { s with wh := { s.wh with sink := { s.wh.sink with port := port } }, host := rest }

/-- The next outside action, if there is one; without one nothing happens (R351). -/
def hostStep (s : State) : Host.Outcome State Fault Refusal :=
  match s.host with
  | [] => .next s
  | a :: rest => hostAction a rest s

end Sys2Proof.Machine
end

