-- ==== Sys2Proof/Machine/Fetch.lean ====
section
/-! DEFINITION. One move of each agent, and which agent moves (R2, R337; logs 12 and 13): the read half reads its header and runs
the instruction it selects (R130), the write half runs the instruction of its command (R120), the host acts. -/

namespace Sys2Proof.Machine

/-- READ_FRAME (R130): the source's next eight bytes select the instruction; fewer end in the header read itself. -/
def readStep (s : State) : Host.Outcome State Fault Refusal :=
  match decode s.rh.source.bytes with
  | .ok (i, _) => exec i s
  | .error _ => readFrame (fun _ => none) s

/-- WRITE_FRAME(f) (R120). -/
def writeStep (f : Command) (s : State) : Host.Outcome State Fault Refusal := exec f.toInstr s

/-- The turn of one agent; an agent with nothing to do lets it pass. -/
def agentStep (a : Agent) (s : State) : Host.Outcome State Fault Refusal :=
  match a with
  | .half .read => if s.rh.request then readStep s else .next s
  | .half .write =>
    match s.wh.request with
    | some f => writeStep f s
    | none => .next s
  | .host => hostStep s

/-- A step without a named turn, when the read half has nothing to do or waits: the write half, then the host. -/
def writeOrHostStep (s : State) : Host.Outcome State Fault Refusal :=
  match s.wh.request with
  | none => hostStep s
  | some f =>
    match writeStep f s with
    | .next s' => if s'.wh.request.isSome then hostStep s else .next s'
    | .fault r => .fault r
    | .refused r => .refused r

/-- A step without a named turn: the read half, if an operation of its is in progress and the source answers; else the write
half; else the host. -/
def defaultStep (s : State) : Host.Outcome State Fault Refusal :=
  if s.rh.request then
    match readStep s with
    | .next s' => if s'.rh.request then writeOrHostStep s else .next s'
    | .fault r => .fault r
    | .refused r => .refused r
  else writeOrHostStep s

/-- How many zero bytes follow the header words of a table word: the 14 of the longest frame whose fields are all zero (a
SynStream with an empty raw header block), or the payload its length asks for (log 22). -/
def tablePadding (nbits w : Nat) : Nat := max 14 (((w % 2 ^ nbits) >>> 32) % 2 ^ 24)

/-- The bytes that stand at the head of the source for a table word. -/
def fetchBytes (nbits w : Nat) : Bytes := tableBytes nbits w ++ List.replicate (tablePadding nbits w) 0x00#8

/-- The state with a READ_FRAME in progress and a table word at the head of the source (log 22). -/
def placeWord (s : State) (nbits w : Nat) : State :=
  { s with
    rh :=
      { s.rh with
        run := .ready
        request := true
        source := { s.rh.source with bytes := fetchBytes nbits w ++ s.rh.source.bytes } }
    life := .live
    turns := [] }

end Sys2Proof.Machine
end

