-- ==== Sys2Proof/Machine/Step.lean ====
section
/-! DEFINITION. One step of the machine: one operation of one half, or one outside action (R2, R59, R337). -/

namespace Sys2Proof.Machine

/-- One step: the agent whose turn is named, or the first that can move. -/
def step (s : State) : Host.Outcome State Fault Refusal :=
  match s.turns with
  | a :: rest => agentStep a { s with turns := rest }
  | [] => defaultStep s

/-- `s` with the instruction of a table word as the next one `step` runs (log 22). -/
def State.withFetchWord (s : State) (nbits w : Nat) : State := placeWord s nbits w

end Sys2Proof.Machine
end

