-- ==== Sys2Proof/Safety.lean ====
section
/-! DEFINITION. The terms claims are stated in: when a half can run an operation, the states an operation leaves, which frames the
block may return and emit, the invariant of the machine, the engine properties of R171, the end of a run (R351). -/

namespace Sys2Proof.Machine

/-- be24: three bytes, most significant first (R11). -/
def be24 (v : BitVec 24) : Bytes := [v.extractLsb' 16 8, v.extractLsb' 8 8, v.extractLsb' 0 8]

/-! ## When an operation runs -/

/-- A WRITE_FRAME is neither refused nor faults for the block's sake: it is live and the write half READY (R331, R361, R363). -/
abbrev State.canWrite (s : State) : Prop := s.life = .live ∧ s.wh.run = .ready

/-- A READ_FRAME is neither refused nor faults for the block's sake: it is live and the read half READY (R331, R361, R363). -/
abbrev State.canRead (s : State) : Prop := s.life = .live ∧ s.rh.run = .ready

/-- The sink accepts the next `n` bytes (R54). -/
def SinkPort.hasRoom (n : Nat) : SinkPort → Bool
  | .accepts => true
  | .failsAfter room _ => decide (n ≤ room)
  | .silentAfter room => decide (n ≤ room)

/-- How the sink answers once it has accepted `n` more bytes (R54). -/
def SinkPort.after (n : Nat) : SinkPort → SinkPort
  | .accepts => .accepts
  | .failsAfter room e => .failsAfter (room - n) e
  | .silentAfter room => .silentAfter (room - n)

/-! ## What an operation leaves (R321, R325) -/

/-- The state after a WRITE_FRAME that appended the frame `bs` to the sink and returned OK. -/
def State.wrote (s : State) (bs : Bytes) : State :=
  { s with
    wh :=
      { s.wh with
        sinkPos := s.wh.sinkPos + bs.length
        sink := { accepted := s.wh.sink.accepted ++ bs, port := s.wh.sink.port.after bs.length }
        request := none
        responses := s.wh.responses ++ [⟨.ok, 0⟩] } }

/-- The state after a WRITE_FRAME that raised an error before it emitted a byte. -/
def State.writeRaised (s : State) (status : Status) (sid : StreamId) : State :=
  { s with wh := { s.wh with request := none, responses := s.wh.responses ++ [⟨status, sid⟩] } }

/-- The state after a WRITE_FRAME whose sink failed with `e` when it had accepted `part` of the frame: BROKEN, the scratch buffer
any value (R54, R330 row W4). -/
def State.writeFailed (s : State) (part : Bytes) (e : Nat) : State :=
  { s with
    wh :=
      { s.wh with
        sinkPos := s.wh.sinkPos + part.length
        sink := { accepted := s.wh.sink.accepted ++ part, port := .failsAfter 0 e }
        run := .broken
        scratch := Config.freeScratch s.wh.draws
        draws := s.wh.draws + 1
        request := none
        responses := s.wh.responses ++ [⟨.ioError (.transport e), 0⟩] } }

/-- The state after a READ_FRAME that consumed `n` bytes and ended with the result `r`, the half READY. -/
def State.readEnded (s : State) (n : Nat) (r : RResult) : State :=
  { s with
    rh :=
      { s.rh with
        srcPos := s.rh.srcPos + n
        source := { s.rh.source with bytes := s.rh.source.bytes.drop n }
        request := false
        responses := s.rh.responses ++ [r] } }

/-- The state after a READ_FRAME that consumed `n` bytes and ended with the error `status`, the half BROKEN. -/
def State.readBroke (s : State) (n : Nat) (status : Status) : State :=
  { s with
    rh :=
      { s.rh with
        run := .broken
        srcPos := s.rh.srcPos + n
        source := { s.rh.source with bytes := s.rh.source.bytes.drop n }
        request := false
        responses := s.rh.responses ++ [⟨status, 0, none, []⟩] } }

/-- The state after a WRITE_FRAME that raised InvalidControlFrame for an over-long frame in compressed mode: BROKEN, the scratch
buffer any value (R124, R330 row W3). -/
def State.writeOverlong (s : State) (sid : StreamId) : State :=
  { s with
    wh :=
      { s.wh with
        run := .broken
        scratch := Config.freeScratch s.wh.draws
        draws := s.wh.draws + 1
        request := none
        responses := s.wh.responses ++ [⟨.invalidControlFrame, sid⟩] } }

/-- `s` with the compressor's state `cs`. -/
def State.withCompressor (s : State) (cs : CState) : State := { s with wh := { s.wh with zc := some cs } }

/-- `s` with the decompressor's state `ds` and the fence at `fence`. -/
def State.withInflater (s : State) (ds : DState) (fence : Word) : State :=
  { s with rh := { s.rh with zd := some ds, fence := fence } }

/-- `s` with a decompressor state that may be any value (log 10) and the fence at `fence`. -/
def State.withFreeInflater (s : State) (fence : Word) : State :=
  { s with
    rh := { s.rh with zd := some (Config.freeInflater s.rh.draws), draws := s.rh.draws + 1, fence := fence } }

/-- `s` with another sink port. -/
def State.withSinkPort (s : State) (port : SinkPort) : State :=
  { s with wh := { s.wh with sink := { s.wh.sink with port := port } } }

/-- `s` with something else behind the source's bytes. -/
def State.withSourceEnd (s : State) (ending : SourceEnd) : State :=
  { s with rh := { s.rh with source := { s.rh.source with ending := ending } } }

/-- The outcome `o` of a WRITE_FRAME on `s` is the emission of the frame `bs`: it is written, or the sink fails within it (R54,
R123). `s'` is `s` with what the encode has changed before. A sink that does not answer is the matter of WaitingChangesNothing. -/
def State.emits (s s' : State) (bs : Bytes) (o : Host.Outcome State Fault Refusal) : Prop :=
  (s.wh.sink.port.hasRoom bs.length = true → o = .next (s'.wrote bs)) ∧
  (∀ room e, s.wh.sink.port = .failsAfter room e → room < bs.length → o = .next (s'.writeFailed (bs.take room) e))

/-- The outcome `o` of a READ_FRAME on `s` is that of a source that ends inside the frame, outside a fence: an IoError that
breaks the half with every byte consumed (R53, R135). -/
def State.runsShort (s : State) (o : Host.Outcome State Fault Refusal) : Prop :=
  (s.rh.source.ending = .eof → o = .next (s.readBroke s.rh.source.bytes.length (.ioError .unexpectedEof))) ∧
  (∀ e, s.rh.source.ending = .error e → o = .next (s.readBroke s.rh.source.bytes.length (.ioError (.transport e))))

/-- The result of a READ_FRAME that returns `frame` (R136). -/
def RResult.returned (frame : Frame) (diag : List Diagnostic) : RResult := ⟨.ok, 0, some frame, diag⟩

/-- The result of a READ_FRAME that raises an error (R321). -/
def RResult.raised (status : Status) (sid : StreamId) (diag : List Diagnostic) : RResult := ⟨status, sid, none, diag⟩

/-- The result of a header-bearing READ_FRAME once its block is parsed (R162, R324 items 8 and 9). -/
def headerResult (set : BannedSet) (sid : StreamId) (frame : HeaderMap → Frame) (acc : BlockAcc) : RResult :=
  if acc.map.any (fun e => set.names.contains e.name) then .raised .invalidHeaderPresent sid acc.diag
  else if sid = 0 then .raised .zeroStreamId 0 acc.diag
  else .returned (frame acc.map) acc.diag

/-- The outcome `o` of a READ_FRAME on `s` in raw mode, `pos` bytes into the frame, the source's further bytes being `blk`: the
block ends where its own counts say, or the source runs short (R178). -/
def State.endsRawBlock (s : State) (pos : Nat) (blk : Bytes) (sid : StreamId) (set : BannedSet) (frame : HeaderMap → Frame)
    (o : Host.Outcome State Fault Refusal) : Prop :=
  (∀ acc rest, hbParse sid blk = some (acc, rest) →
    o = .next (s.readEnded (pos + (blk.length - rest.length)) (headerResult set sid frame acc))) ∧
  (hbParse sid blk = none → s.runsShort o)

/-- The outcome `o` of a READ_FRAME on `s` in compressed mode, `pos` bytes into the frame, the fence being `L` and the source's
further bytes `blk`: the fenced decode and its exactness check (R177). -/
def State.endsFencedBlock (s : State) (pos : Nat) (blk : Bytes) (L : Nat) (sid : StreamId) (set : BannedSet)
    (frame : HeaderMap → Frame) (o : Host.Outcome State Fault Refusal) : Prop :=
  (blk.length < L → s.rh.source.ending = .eof →
    o = .next ((s.readBroke (pos + blk.length) .wrongCompressedPayloadSize).withFreeInflater
      (BitVec.ofNat 32 (L - blk.length)))) ∧
  (∀ e, blk.length < L → s.rh.source.ending = .error e →
    ∃ fence, o = .next ((s.readBroke (pos + blk.length) (.ioError (.transport e))).withFreeInflater fence)) ∧
  (L ≤ blk.length →
    match Config.engine.inflateFeed (s.rh.zd.getD (Config.engine.inflateInit s.cfg.dict)) (blk.take L) with
    | .zerr z => o = .next ((s.readBroke (pos + L) (.zlibError z)).withFreeInflater 0)
    | .fed ds out boundary =>
      match hbParse sid out with
      | some (acc, []) =>
        if boundary then o = .next ((s.readEnded (pos + L) (headerResult set sid frame acc)).withInflater ds 0)
        else o = .next ((s.readBroke (pos + L) .wrongCompressedPayloadSize).withFreeInflater 0)
      | _ => o = .next ((s.readBroke (pos + L) .wrongCompressedPayloadSize).withFreeInflater 0))

/-- The outcome of the header block in either mode (R175); `length` is the frame's, `fixed` its prefix length. -/
def State.endsBlock (s : State) (length fixed : Nat) (blk : Bytes) (sid : StreamId) (set : BannedSet)
    (frame : HeaderMap → Frame) (o : Host.Outcome State Fault Refusal) : Prop :=
  (s.cfg.nocomp = true → s.endsRawBlock (8 + fixed) blk sid set frame o) ∧
  (s.cfg.nocomp = false → s.endsFencedBlock (8 + fixed) blk (length - fixed) sid set frame o)

/-- The outcome `o` of a header-bearing WRITE_FRAME on `s` after its own checks, in either mode (R200): `fixed` are the fixed
fields, `header` the 8 header bytes for a payload length. -/
def State.writesBlock (s : State) (header : BitVec 24 → Bytes) (fixed : Bytes) (hl : HeaderList) (sid : StreamId)
    (o : Host.Outcome State Fault Refusal) : Prop :=
  (s.cfg.nocomp = true →
    let payload := fixed ++ hbSerialize hl
    (payload.length ≤ 0xFFFFFF → s.emits s (header (BitVec.ofNat 24 payload.length) ++ payload) o) ∧
    (payload.length > 0xFFFFFF → o = .next (s.writeRaised .invalidControlFrame sid))) ∧
  (∀ cs, s.cfg.nocomp = false → s.wh.zc = some cs →
    let r := Config.engine.deflateBlock cs (hbSerialize hl)
    let payload := fixed ++ r.2
    (payload.length ≤ 0xFFFFFF →
      s.emits (s.withCompressor r.1) (header (BitVec.ofNat 24 payload.length) ++ payload) o) ∧
    (payload.length > 0xFFFFFF → o = .next ((s.withCompressor r.1).writeOverlong sid)))

/-- The bytes of a Settings entry on the wire: flag, id, value (R90). -/
def SettingsEntry.wire (e : SettingsEntry) : Bytes := e.flag :: be24 e.id ++ be32 e.value

/-- The rows of R330 that make a half BROKEN: `r` is the status returned, `headerBearing` and `nocomp` say which frame and which
mode. -/
def Status.breaks (r : Status) (headerBearing nocomp : Bool) : Bool :=
  match r with
  | .ioError _ | .wrongCompressedPayloadSize | .zlibError _ => true
  | .invalidControlFrame => headerBearing && !nocomp
  | _ => false

/-- SynStream, SynReply and Headers carry a header block (R14). -/
def headerBearing : Instr → Bool
  | .synStream _ | .synReply _ | .headers _ => true
  | _ => false

/-! ## Frames the block may return and emit -/

/-- A HeaderMap (R150): pairwise distinct, lowercase names, and none of a banned set (R162). -/
def goodMap (set : BannedSet) (m : HeaderMap) : Prop :=
  (m.map HeaderEntry.name).Nodup ∧ ∀ e ∈ m, lower e.name = e.name ∧ e.name ∉ set.names

/-- What every frame READ_FRAME returns keeps to (R103, R162, and the field checks of 42, 43 and 44). -/
def Frame.valid (parity : HeadersParity) : Frame → Prop
  | .synStream cf sid _ _ _ m => cf.frameType = 0x0001#16 ∧ sid ≠ 0 ∧ goodMap .request m
  | .synReply cf sid m => cf.frameType = 0x0002#16 ∧ sid ≠ 0 ∧ goodMap .response m
  | .rstStream cf sid status => cf.frameType = 0x0003#16 ∧ sid ≠ 0 ∧ status ≠ 0
  | .settings cf _ => cf.frameType = 0x0004#16
  | .ping cf id => cf.frameType = 0x0006#16 ∧ cf.flags = 0 ∧ id ≠ 0
  | .goAway cf _ _ => cf.frameType = 0x0007#16 ∧ cf.flags = 0 ∧ cf.length = 8
  | .headers cf sid m => cf.frameType = 0x0008#16 ∧ sid ≠ 0 ∧ goodMap (headersBannedSet parity sid) m
  | .windowUpdate cf sid _ => cf.frameType = 0x0009#16 ∧ cf.flags = 0 ∧ cf.length = 8 ∧ sid ≠ 0
  | .data sid _ payload => sid ≠ 0 ∧ payload.length ≤ 0xFFFFFF

/-- A result READ_FRAME may return: a frame exactly when the status is OK, with sid 0, and then a valid one (R136, R321). -/
def RResult.valid (parity : HeadersParity) (r : RResult) : Prop :=
  match r.frame with
  | some f => r.status = .ok ∧ r.sid = 0 ∧ f.valid parity
  | none => r.status ≠ .ok

/-- A whole control frame as the encoder emits one: version 3, a known type, no reserved flag, the length of the payload (R80,
R105, R122, R123). -/
def emittedControl (bs : Bytes) : Prop :=
  ∃ (k : ControlKind) (flags : BitVec 8) (payload : Bytes),
    payload.length ≤ 0xFFFFFF ∧ (k = .ping ∨ k = .goAway ∨ k = .windowUpdate → flags = 0) ∧
    bs = controlHeaderBytes 3 k.discriminant flags (BitVec.ofNat 24 payload.length) ++ payload

/-- A whole data frame as the encoder emits one: the control bit 0, a non-zero stream id, the length of the payload (R83, R84,
R125). -/
def emittedData (bs : Bytes) : Prop :=
  ∃ (sid : StreamId) (flags : BitVec 8) (payload : Bytes),
    payload.length ≤ 0xFFFFFF ∧ sid ≠ 0 ∧
    bs = dataHeaderBytes (sid.setWidth 32) flags (BitVec.ofNat 24 payload.length) ++ payload

/-- The bytes are whole emitted frames, one after the other (R59, R80). -/
def wholeFrames (bs : Bytes) : Prop :=
  ∃ fs : List Bytes, bs = fs.flatten ∧ ∀ f ∈ fs, emittedControl f ∨ emittedData f

/-! ## The invariant -/

/-- What every step keeps (R21, R22, R24, R30, R31, R59, R103, R321). -/
structure State.Inv (s : State) : Prop where
  /-- WH.sink_pos counts the bytes the sink has accepted (R24). -/
  sinkPos : s.wh.sinkPos = s.wh.sink.accepted.length
  /-- A READY write half has an empty scratch buffer between operations (R22). -/
  scratch : s.wh.run = .ready → s.wh.scratch = []
  /-- What a READY write half has emitted is whole frames (R59). -/
  frames : s.wh.run = .ready → wholeFrames s.wh.sink.accepted
  /-- A live block has a compressor exactly when it is in compressed mode (R21). -/
  compressor : s.life = .live → (s.wh.zc.isSome ↔ s.cfg.nocomp = false)
  /-- A block that is not live has no engine (R361, R363). -/
  noEngine : s.life ≠ .live → s.wh.zc = none ∧ s.rh.zd = none
  /-- In raw mode there is no decompressor (R30). -/
  decompressor : s.cfg.nocomp = true → s.rh.zd = none
  /-- The fence of a READY read half is 0 (R31). -/
  fence : s.rh.run = .ready → s.rh.fence = 0
  /-- Every result returned is one READ_FRAME may return (R103, R321). -/
  results : ∀ r ∈ s.rh.responses, r.valid s.cfg.headersParity

end Sys2Proof.Machine

namespace Sys2Proof

/-! ## The engine properties of R171 -/

/-- The compressor state `cs` and the decompressor state `ds` are in step for the blocks `bs`: each is decoded to itself, at a
flush boundary, in order. -/
def Engine.decodes (eng : Engine) : CState → DState → List Bytes → Prop
  | _, _, [] => True
  | cs, ds, b :: bs =>
    ∃ ds', eng.inflateFeed ds (eng.deflateBlock cs b).2 = .fed ds' b true ∧
      Engine.decodes eng (eng.deflateBlock cs b).1 ds' bs

/-- The two engine states are in step for every sequence of blocks. -/
def Engine.inStep (eng : Engine) (cs : CState) (ds : DState) : Prop := ∀ bs, eng.decodes cs ds bs

/-- P-RT: the round trip, in order (R171). -/
def Engine.roundTrip (eng : Engine) (dict : Bytes) (level : Nat) : Prop :=
  eng.inStep (eng.deflateInit dict level) (eng.inflateInit dict)

/-- `cs'` and `ds'` are the two engine states after the blocks `bs`, each fed whole to the decompressor and decoded to itself at a
flush boundary: the pair c_i, s_i of R171. -/
def Engine.carries (eng : Engine) : CState → DState → List Bytes → CState → DState → Prop
  | cs, ds, [], cs', ds' => cs' = cs ∧ ds' = ds
  | cs, ds, b :: bs, cs', ds' =>
    ∃ ds₁, eng.inflateFeed ds (eng.deflateBlock cs b).2 = .fed ds₁ b true ∧
      Engine.carries eng (eng.deflateBlock cs b).1 ds₁ bs cs' ds'

/-- The compressor's state after the blocks `bs`: c_i of R171. -/
def Engine.deflated (eng : Engine) (cs : CState) (bs : List Bytes) : CState :=
  bs.foldl (fun cs b => (eng.deflateBlock cs b).1) cs

/-- P-NONEMPTY: whatever blocks went before, what the compressor emits for a block is not empty (R171). -/
def Engine.nonEmpty (eng : Engine) (dict : Bytes) (level : Nat) : Prop :=
  ∀ (bs : List Bytes) (b : Bytes), (eng.deflateBlock (eng.deflated (eng.deflateInit dict level) bs) b).2 ≠ []

/-- P-TRUNC at one block: a proper part of what the compressor emits for `b` does not complete it (R171). -/
def Engine.truncates (eng : Engine) (cs : CState) (ds : DState) (b : Bytes) : Prop :=
  ∀ n, n < (eng.deflateBlock cs b).2.length →
    ∃ ds' out boundary, eng.inflateFeed ds ((eng.deflateBlock cs b).2.take n) = .fed ds' out boundary ∧
      out <+: b ∧ ¬ (out = b ∧ boundary = true)

/-- P-TRUNC: it holds at every block, whatever blocks went before (R171). -/
def Engine.truncatesAll (eng : Engine) (dict : Bytes) (level : Nat) : Prop :=
  ∀ (bs : List Bytes) (b : Bytes) (cs : CState) (ds : DState),
    eng.carries (eng.deflateInit dict level) (eng.inflateInit dict) bs cs ds → eng.truncates cs ds b

/-- P-DICT at the first block: an inflater created from another dictionary rejects what a compressor created from `dict` emits
first (R171). -/
def Engine.needsDictionary (eng : Engine) (dict : Bytes) (level : Nat) : Prop :=
  ∀ (d' b : Bytes), d' ≠ dict →
    ∃ z, eng.inflateFeed (eng.inflateInit d') (eng.deflateBlock (eng.deflateInit dict level) b).2 = .zerr z

end Sys2Proof

namespace Sys2Proof.Machine

/-! ## Names as text (R160) -/

/-- The bytes of an ASCII text. -/
def ascii (text : String) : Bytes := text.toList.map fun c => BitVec.ofNat 8 c.toNat

/-! ## Header lists that survive the round trip (R150, R153) -/

/-- Names distinct and lowercase, value lists non-empty, no NUL inside a value. -/
def canonicalHeaders (hl : HeaderList) : Bool :=
  decide (hl.map HeaderEntry.name).Nodup &&
    hl.all fun e => lower e.name == e.name && !e.values.isEmpty && e.values.all fun v => !v.contains 0x00#8

/-! ## Header blocks on the wire (R98) -/

/-- One entry as it stands on the wire: the name's length and bytes, the value's length and bytes. -/
def wireEntry (e : Bytes × Bytes) : Bytes :=
  be32 (BitVec.ofNat 32 e.1.length) ++ e.1 ++ be32 (BitVec.ofNat 32 e.2.length) ++ e.2

/-- A block of wire entries: their count, then the entries. -/
def wireBlock (es : List (Bytes × Bytes)) : Bytes := be32 (BitVec.ofNat 32 es.length) ++ es.flatMap wireEntry

/-- The counts of a block fit their 32-bit words. -/
def wireFits (es : List (Bytes × Bytes)) : Prop :=
  es.length < 2 ^ 32 ∧ ∀ e ∈ es, e.1.length < 2 ^ 32 ∧ e.2.length < 2 ^ 32

/-- A HeaderList is over a limit of R102: too many entries, or a name or a NUL-joined value too long. -/
def overLimits (hl : HeaderList) : Prop :=
  2 ^ 32 ≤ hl.length ∨ ∃ e ∈ hl, 2 ^ 32 ≤ e.name.length ∨ 2 ^ 32 ≤ (joinNul e.values).length

/-! ## A compressed block carried from one half to another -/

/-- The write rule `wr`, run on `wh`, emits one frame, header `h` and the fixed fields `fixed` before a block; a read half `rh`
whose source is that frame and `rest` selects the instruction `i` and by its rule `rd` returns `frame` with no diagnostic, the fence
at 0, the run state as it was and `rest` unread; and the two engine states are in step afterwards. -/
def carriesBlock (eng : Engine) (wr : WriteHalf → Option WriteHalf) (h : ReadHeader) (i : Instr)
    (rd : ReadHalf → Option ReadHalf) (fixed : Nat) (frame : Frame) (wh : WriteHalf) (rh : ReadHalf) (rest : Bytes) : Prop :=
  ∃ wh' cs' bs, wr wh = some wh' ∧ wh'.zc = some cs' ∧ wh'.sink.accepted = wh.sink.accepted ++ bs ∧
    wh'.responses = wh.responses ++ [⟨.ok, 0⟩] ∧ bs.length = 8 + h.length.toNat ∧ fixed ≤ h.length.toNat ∧
    (rh.source.bytes = bs ++ rest →
      ∃ rh' ds', decode rh.source.bytes = .ok (i, bs.drop 8 ++ rest) ∧ readHeader rh rd = some rh' ∧ rh'.zd = some ds' ∧
        rh'.fence = 0 ∧ rh'.source.bytes = rest ∧ rh'.run = rh.run ∧
        rh'.responses = rh.responses ++ [⟨.ok, 0, some frame, []⟩] ∧ eng.inStep cs' ds')

/-- The three header-bearing read rules, each with the size of its fixed fields (R86, R87, R93). -/
def headerRule (eng : Engine) (cfg : Cfg) (h : ReadHeader) (rd : ReadHalf → Option ReadHalf) (fixed : Nat) : Prop :=
  (rd = rdSynStream eng cfg h ∧ fixed = 10) ∨ (rd = rdSynReply eng cfg h ∧ fixed = 4) ∨
    (rd = rdHeaders eng cfg h ∧ fixed = 4)

/-! ## The end of a run (R351) -/

/-- The host's own actions (R350), not the peer's or the transport's. -/
def HostAction.byHost : HostAction → Bool
  | .reset .. | .writeFrame _ | .readFrame | .discard _ | .release => true
  | .sourceSupplies .. | .sinkBecomes _ => false

/-- The host issues no more (R351). -/
def State.hostIsDone (s : State) : Bool := s.host.all fun a => !a.byHost

/-- The run has ended: the block is released, or no operation is in progress and the host issues no more (R351). -/
abbrev State.ended (s : State) : Prop := s.life = .released ∨ (s.busy = false ∧ s.hostIsDone = true)

/-- Nothing is left that could still be refused or fault: no operation is in progress and the host issues no more, not even after a
release (R351, R363). -/
abbrev State.settled (s : State) : Prop := s.busy = false ∧ s.hostIsDone = true

/-- What stops a run (R331, R329, R351). -/
inductive Stop where
  | fault (r : Fault)
  | refusal (r : Refusal)
  deriving DecidableEq, Repr

/-- `n` steps from `s`, or fewer up to the first fault or refusal: the state then, and the fault or refusal recorded (R351). That
it ends the run of the whole block, the other half included, is the model's choice (log 33). -/
def run : Nat → State → State × Option Stop
  | 0, s => (s, none)
  | n + 1, s =>
    match step s with
    | .next t => run n t
    | .fault r => (s, some (.fault r))
    | .refused r => (s, some (.refusal r))

/-- The outcome of a run (R351): the results returned, the bytes appended to the sink, the source position, and the fault or refusal
that was recorded. -/
structure RunOutcome where
  reset : ResetResult
  writeResults : List WResult
  readResults : List RResult
  sinkBytes : Bytes
  srcPos : Nat
  stop : Option Stop
  deriving DecidableEq, Repr

/-- The outcome a state shows, with what was recorded on the way to it. -/
def State.outcome (s : State) (stop : Option Stop) : RunOutcome :=
  { reset := s.resetResult, writeResults := s.wh.responses, readResults := s.rh.responses,
    sinkBytes := s.wh.sink.accepted, srcPos := s.rh.srcPos, stop := stop }

/-- The outcome of the run of `n` steps from `s` (R351). -/
def runOutcome (n : Nat) (s : State) : RunOutcome := (run n s).1.outcome (run n s).2

/-- The run of `n` steps from `s` is a successful end: nothing is left to do, and no fault and no refusal was recorded (R351). -/
abbrev endsWell (n : Nat) (s : State) : Prop := (run n s).1.settled ∧ (run n s).2 = none

end Sys2Proof.Machine
end

