-- ==== Sys2Proof/Certificates/Slice0/Obligations.lean ====
section
/-! DEFINITION. The statements for the provers, from the numbered rules of spec/. -/

open Sys2Proof Sys2Proof.Machine

/-! ## Reset -/

/-- The values of R40 after RESET(sink, source, nocomp), when DEFLATE.init does not fail or is not called. R40 speaks of the one
construction of R360; that RESET of any idle block, with whatever behind it, leaves them too, with no results and with the free
values' counters running on, is the model's choice (logs 9, 10, 16). -/
def Obligations.ResetActionLeavesTheValuesOfR40 : Prop :=
  ∀ (nocomp compInitOk : Bool) (port : SinkPort) (source : Source) (rest : List HostAction) (s : State),
    s.wh.request = none → s.rh.request = false →
    (nocomp = true ∨ compInitOk = true →
      hostAction (.reset nocomp compInitOk port source) rest s =
        .next
          { cfg :=
              { nocomp := nocomp, dict := Config.dict, level := Config.level, headersParity := Config.headersParity,
                dataMaxLen := Config.dataMaxLen }
            wh :=
              { zc := if nocomp then none else some (Config.engine.deflateInit Config.dict Config.level)
                scratch := [], run := .ready, sinkPos := 0, request := none, responses := []
                sink := { accepted := [], port := port }, draws := s.wh.draws }
            rh :=
              { zd := none, fence := 0, run := .ready, srcPos := 0, request := false, responses := []
                source := source, draws := s.rh.draws }
            life := .live, resetResult := .success, host := rest, turns := s.turns }) ∧
    (nocomp = false → compInitOk = false →
      ∃ t, hostAction (.reset nocomp compInitOk port source) rest s = .next t ∧ t.life ≠ .live)

/-- R361: when DEFLATE.init fails, RESET returns InitError, no block exists and no operation may be issued. The model's choices: that
a failed RESET ends a block that stood there before (log 16), that no engine is then in the registers (log 32), and that a release,
which R361 calls needless, is refused (log 31). -/
def Obligations.InitFailureLeavesNoBlock : Prop :=
  ∀ (port : SinkPort) (source : Source) (rest : List HostAction) (s : State),
    s.wh.request = none → s.rh.request = false →
    ∃ t, hostAction (.reset false false port source) rest s = .next t ∧
      t.resetResult = .initError ∧ t.life = .initFailed ∧ t.wh.zc = none ∧ t.rh.zd = none ∧
      (∀ i, exec i t = .refused .noBlock) ∧ (∀ rest', hostAction .release rest' t = .refused .noBlock)

/-- The model's choice (logs 7, 9, 10, 13, 14): State.reset is what RESET(accepting sink, silent empty source, nocomp = false)
leaves, with nothing in progress, nothing outside and no turn. -/
def Obligations.StateResetIsAResetInCompressedMode : Prop :=
  ∀ s, s.wh.request = none → s.rh.request = false → s.wh.draws = 0 → s.rh.draws = 0 → s.turns = [] →
    hostAction (.reset false true .accepts { bytes := [], ending := .silent }) [] s = .next State.reset

/-! ## Encoding -/

/-- R100, R110: the masks of the opcode map select the variant, and the fields are those of the summary; the version takes no
part. -/
def Obligations.VariantSelectionFollowsTheMasks : Prop :=
  ∀ w0 w1 : Word,
    let h : ReadHeader := ⟨w0.extractLsb' 16 15, w1.extractLsb' 24 8, w1.extractLsb' 0 24⟩
    (w0 &&& 0x8000FFFF#32 = 0x80000001#32 → decodeHeader w0 w1 = .synStream (.read h)) ∧
    (w0 &&& 0x8000FFFF#32 = 0x80000002#32 → decodeHeader w0 w1 = .synReply (.read h)) ∧
    (w0 &&& 0x8000FFFF#32 = 0x80000003#32 → decodeHeader w0 w1 = .rstStream (.read h)) ∧
    (w0 &&& 0x8000FFFF#32 = 0x80000004#32 → decodeHeader w0 w1 = .settings (.read h)) ∧
    (w0 &&& 0x8000FFFF#32 = 0x80000006#32 → decodeHeader w0 w1 = .ping (.read h)) ∧
    (w0 &&& 0x8000FFFF#32 = 0x80000007#32 → decodeHeader w0 w1 = .goAway (.read h)) ∧
    (w0 &&& 0x8000FFFF#32 = 0x80000008#32 → decodeHeader w0 w1 = .headers (.read h)) ∧
    (w0 &&& 0x8000FFFF#32 = 0x80000009#32 → decodeHeader w0 w1 = .windowUpdate (.read h)) ∧
    (w0 &&& 0x80000000#32 = 0 →
      decodeHeader w0 w1 = .data (.read ⟨w0.extractLsb' 0 31, w1.extractLsb' 24 8, w1.extractLsb' 0 24⟩)) ∧
    (w0 &&& 0x80000000#32 = 0x80000000#32 →
      (∀ t ∈ [1, 2, 3, 4, 6, 7, 8, 9], w0 &&& 0xFFFF#32 ≠ BitVec.ofNat 32 t) →
      decodeHeader w0 w1 =
        .unknownControlType (.read ⟨h.version, w0.extractLsb' 0 16, h.flags, h.length⟩))

/-- Every well-formed header form, whatever its fields, is what the decoder reads from the bytes the encoder gives it. -/
def Obligations.EncodedHeadersDecodeBack : Prop :=
  ∀ (i : Instr) (rest : Bytes), i.isRead = true → i.wellFormed = true → decode (encode i ++ rest) = .ok (i, rest)

/-- The other direction: what the decoder reads is a well-formed header form, and the encoder gives the bytes back, so no two
byte strings share a meaning and no header bit is dropped. -/
def Obligations.DecodedHeadersEncodeBack : Prop :=
  ∀ (bs : Bytes) (i : Instr) (rest : Bytes), decode bs = .ok (i, rest) →
    i.isRead = true ∧ i.wellFormed = true ∧ bs = encode i ++ rest

/-- A few words written out from the spec's encodings, one of each family, decode to what they stand for. -/
def Obligations.SampleWordsDecode : Prop :=
  decode [0x80#8, 0x03#8, 0x00#8, 0x01#8, 0x02#8, 0x00#8, 0x00#8, 0x20#8] = .ok (.synStream (.read ⟨3, 2, 32⟩), []) ∧
  decode [0x80#8, 0x02#8, 0x00#8, 0x06#8, 0x00#8, 0x00#8, 0x00#8, 0x04#8, 0xAA#8] = .ok (.ping (.read ⟨2, 0, 4⟩), [0xAA#8]) ∧
  decode [0x00#8, 0x00#8, 0x00#8, 0x01#8, 0x01#8, 0x00#8, 0x00#8, 0x00#8] = .ok (.data (.read ⟨1, 1, 0⟩), []) ∧
  decode [0xFF#8, 0xFF#8, 0xFF#8, 0xFF#8, 0x01#8, 0x00#8, 0x00#8, 0x00#8] =
    .ok (.unknownControlType (.read ⟨0x7FFF, 0xFFFF, 1, 0⟩), []) ∧
  decode [0x80#8, 0x03#8, 0x00#8, 0x06#8, 0x00#8, 0x00#8] = .error .secondWordShort

/-! ## Operand fields -/

/-- R96: the priority occupies the top 3 bits of its byte, the low 5 bits are 0 on emit and ignored on parse. -/
def Obligations.PriorityOccupiesTheTopThreeBits : Prop :=
  (∀ p, p < 8 → (priorityByte p).toNat = 32 * p) ∧
  ∀ b : Byte, (priorityOf b).toNat = b.toNat / 32

/-- R97: the reserved bit of a 31-bit field is cleared on emit and masked off on parse; the other bits are kept. -/
def Obligations.ReservedBitIsClearedAndMasked : Prop :=
  ∀ w : Word, (put31 w).toNat = w.toNat % 2 ^ 31 ∧ (get31 w).toNat = w.toNat % 2 ^ 31 ∧ get31 (w ||| 0x80000000#32) = get31 w

/-- R153: joining puts one NUL between two values; splitting cuts at every NUL, joining undoes it, and splitting undoes joining
exactly when the list is non-empty and no element contains NUL (an inference the spec marks as its own). -/
def Obligations.SplitAndJoinOnNul : Prop :=
  joinNul [] = [] ∧ (∀ v, joinNul [v] = v) ∧ (∀ v w vs, joinNul (v :: w :: vs) = v ++ [0x00#8] ++ joinNul (w :: vs)) ∧
  splitNul [] = [[]] ∧
  (∀ bs : Bytes, joinNul (splitNul bs) = bs ∧ (splitNul bs).length = bs.count 0x00#8 + 1 ∧
    ∀ v ∈ splitNul bs, 0x00#8 ∉ v) ∧
  ∀ vs : List Bytes, splitNul (joinNul vs) = vs ↔ vs ≠ [] ∧ ∀ v ∈ vs, 0x00#8 ∉ v

/-- R152: lower adds 0x20 to the bytes 0x41 to 0x5A and leaves every other byte; what it gives is lowercase. -/
def Obligations.LowercasingIsAsciiAndIdempotent : Prop :=
  ∀ bs : Bytes,
    (lower bs).length = bs.length ∧
    (∀ (n : Nat) (b : Byte), bs[n]? = some b →
      (lower bs)[n]? = some (if 0x41 ≤ b.toNat ∧ b.toNat ≤ 0x5A then b + 0x20#8 else b)) ∧
    lower (lower bs) = lower bs

/-- R160: the banned sets, name by name; they differ in host only, and a map's names are compared with them exactly. -/
def Obligations.BannedSetsAreThoseOfR160 : Prop :=
  BannedSet.request.names =
    [ascii "connection", ascii "host", ascii "keep-alive", ascii "proxy-connection", ascii "transfer-encoding"] ∧
  BannedSet.response.names =
    [ascii "connection", ascii "keep-alive", ascii "proxy-connection", ascii "transfer-encoding"] ∧
  ∀ (set : BannedSet) (m : HeaderMap), hasBanned set m = true ↔ ∃ e ∈ m, e.name ∈ set.names

/-- What the encoder serializes, for any header list: the count, then for each entry its lowercased name and its joined values,
each behind its length, repeated and banned names included. Parsed back it gives the map and the diagnostics of those entries, and
the bytes that follow it; for distinct lowercase names and non-empty, NUL-free values, the list itself without a diagnostic. -/
def Obligations.SerializedBlocksParseBack : Prop :=
  (∀ hl : HeaderList, hbSerialize hl = wireBlock (hl.map fun e => (lower e.name, joinNul e.values))) ∧
  hbSerialize [] = [0x00#8, 0x00#8, 0x00#8, 0x00#8] ∧
  ∀ (hl : HeaderList) (sid : StreamId) (rest : Bytes), headerListWellFormed hl = true →
    hbParse sid (hbSerialize hl ++ rest) =
      some ((hl.map fun e => (lower e.name, joinNul e.values)).foldl (addEntry sid) ⟨[], []⟩, rest) ∧
    (canonicalHeaders hl = true → hbParse sid (hbSerialize hl ++ rest) = some (⟨hl, []⟩, rest))

/-- A block parses to its wire entries one by one, whatever their names and values, and leaves what follows it; a proper front part
of it runs short. The map and the diagnostics of the entries: names in the order of their first use, lowercase and distinct; the
values of a name those of all its entries, in order; the case diagnostic of an entry before its duplicate one. -/
def Obligations.BlockEntriesGiveMapAndDiagnostics : Prop :=
  (∀ (sid : StreamId) (es : List (Bytes × Bytes)) (rest : Bytes), wireFits es →
    hbParse sid (wireBlock es ++ rest) = some (es.foldl (addEntry sid) ⟨[], []⟩, rest) ∧
    ∀ n, n < (wireBlock es).length → hbParse sid ((wireBlock es).take n) = none) ∧
  ∀ (sid : StreamId) (es : List (Bytes × Bytes)) (e : Bytes × Bytes),
    let acc := es.foldl (addEntry sid) ⟨[], []⟩
    let acc' := (es ++ [e]).foldl (addEntry sid) ⟨[], []⟩
    (acc.map.map HeaderEntry.name).Nodup ∧
    (∀ h ∈ acc.map, lower h.name = h.name ∧
      h.values = (es.filter fun x => lower x.1 = h.name).flatMap fun x => splitNul x.2) ∧
    acc'.map.map HeaderEntry.name =
      acc.map.map HeaderEntry.name ++ (if lower e.1 ∈ acc.map.map HeaderEntry.name then [] else [lower e.1]) ∧
    acc'.diag =
      acc.diag ++ (if lower e.1 = e.1 then [] else [⟨.unlowercasedHeaderName, sid⟩]) ++
        (if lower e.1 ∈ es.map (fun x => lower x.1) then [⟨.duplicateHeaders, sid⟩] else [])

/-! ## WRITE_FRAME, variant by variant -/

/-- R205 with R200: SynStream encode, in both modes. The premises on the scratch buffer and the compressor are the invariant's. -/
def Obligations.SynStreamWriteOutcome : Prop :=
  ∀ (f : SynStreamCmd) (s : State),
    s.canWrite → (Instr.synStream (.write f)).wellFormed = true → s.wh.scratch = [] →
    (f.streamId % 2 ^ 31 = 0 → exec (.synStream (.write f)) s = .next (s.writeRaised .zeroStreamId 0)) ∧
    (f.streamId % 2 ^ 31 ≠ 0 →
      s.writesBlock (fun len => [0x80#8, 0x03#8, 0x00#8, 0x01#8] ++ [BitVec.ofNat 8 f.flags] ++ be24 len)
        (be32 (BitVec.ofNat 32 (f.streamId % 2 ^ 31)) ++ be32 (BitVec.ofNat 32 (f.associatedStreamId % 2 ^ 31)) ++
          [BitVec.ofNat 8 (32 * f.priority), BitVec.ofNat 8 f.slot])
        f.headers (BitVec.ofNat 31 f.streamId) (exec (.synStream (.write f)) s))

/-- R210 with R200: SynReply encode, in both modes. -/
def Obligations.SynReplyWriteOutcome : Prop :=
  ∀ (f : SynReplyCmd) (s : State),
    s.canWrite → (Instr.synReply (.write f)).wellFormed = true → s.wh.scratch = [] →
    (f.streamId % 2 ^ 31 = 0 → exec (.synReply (.write f)) s = .next (s.writeRaised .zeroStreamId 0)) ∧
    (f.streamId % 2 ^ 31 ≠ 0 →
      s.writesBlock (fun len => [0x80#8, 0x03#8, 0x00#8, 0x02#8] ++ [BitVec.ofNat 8 f.flags] ++ be24 len)
        (be32 (BitVec.ofNat 32 (f.streamId % 2 ^ 31)))
        f.headers (BitVec.ofNat 31 f.streamId) (exec (.synReply (.write f)) s))

/-- R215 with R200: Headers encode, in both modes. -/
def Obligations.HeadersWriteOutcome : Prop :=
  ∀ (f : HeadersCmd) (s : State),
    s.canWrite → (Instr.headers (.write f)).wellFormed = true → s.wh.scratch = [] →
    (f.streamId % 2 ^ 31 = 0 → exec (.headers (.write f)) s = .next (s.writeRaised .zeroStreamId 0)) ∧
    (f.streamId % 2 ^ 31 ≠ 0 →
      s.writesBlock (fun len => [0x80#8, 0x03#8, 0x00#8, 0x08#8] ++ [BitVec.ofNat 8 f.flags] ++ be24 len)
        (be32 (BitVec.ofNat 32 (f.streamId % 2 ^ 31)))
        f.headers (BitVec.ofNat 31 f.streamId) (exec (.headers (.write f)) s))

/-- R240: RstStream encode; the status check comes first, the flags pass through. -/
def Obligations.RstStreamWriteOutcome : Prop :=
  ∀ (f : RstStreamCmd) (s : State),
    s.canWrite → (Instr.rstStream (.write f)).wellFormed = true →
    (f.status = 0 →
      exec (.rstStream (.write f)) s = .next (s.writeRaised .invalidControlFrame (BitVec.ofNat 31 f.streamId))) ∧
    (f.status ≠ 0 → f.streamId % 2 ^ 31 = 0 →
      exec (.rstStream (.write f)) s = .next (s.writeRaised .zeroStreamId 0)) ∧
    (f.status ≠ 0 → f.streamId % 2 ^ 31 ≠ 0 →
      s.emits s
        ([0x80#8, 0x03#8, 0x00#8, 0x03#8] ++ [BitVec.ofNat 8 f.flags] ++ be24 8 ++
          be32 (BitVec.ofNat 32 (f.streamId % 2 ^ 31)) ++ be32 (BitVec.ofNat 32 f.status))
        (exec (.rstStream (.write f)) s))

/-- R245: Settings encode; more than 2,097,151 entries do not fit. -/
def Obligations.SettingsWriteOutcome : Prop :=
  ∀ (f : SettingsCmd) (s : State),
    s.canWrite → (Instr.settings (.write f)).wellFormed = true →
    (f.entries.length > 2097151 → exec (.settings (.write f)) s = .next (s.writeRaised .invalidControlFrame 0)) ∧
    (f.entries.length ≤ 2097151 →
      s.emits s
        ([0x80#8, 0x03#8, 0x00#8, 0x04#8] ++ [BitVec.ofNat 8 f.flags] ++
          be24 (BitVec.ofNat 24 (4 + 8 * f.entries.length)) ++ be32 (BitVec.ofNat 32 f.entries.length) ++
          f.entries.flatMap fun e =>
            [BitVec.ofNat 8 e.flag] ++ be24 (BitVec.ofNat 24 e.id) ++ be32 (BitVec.ofNat 32 e.value))
        (exec (.settings (.write f)) s))

/-- R250: Ping encode; the flags are forced to 0. -/
def Obligations.PingWriteOutcome : Prop :=
  ∀ (f : PingCmd) (s : State),
    s.canWrite → (Instr.ping (.write f)).wellFormed = true →
    (f.id = 0 → exec (.ping (.write f)) s = .next (s.writeRaised .zeroStreamId 0)) ∧
    (f.id ≠ 0 →
      s.emits s ([0x80#8, 0x03#8, 0x00#8, 0x06#8, 0x00#8, 0x00#8, 0x00#8, 0x04#8] ++ be32 (BitVec.ofNat 32 f.id))
        (exec (.ping (.write f)) s))

/-- R255: GoAway encode; the flags are forced to 0, bit 31 of the id is cleared, nothing is checked. -/
def Obligations.GoAwayWriteOutcome : Prop :=
  ∀ (f : GoAwayCmd) (s : State),
    s.canWrite → (Instr.goAway (.write f)).wellFormed = true →
    s.emits s
      ([0x80#8, 0x03#8, 0x00#8, 0x07#8, 0x00#8, 0x00#8, 0x00#8, 0x08#8] ++
        be32 (BitVec.ofNat 32 (f.lastGoodStreamId % 2 ^ 31)) ++ be32 (BitVec.ofNat 32 f.status))
      (exec (.goAway (.write f)) s)

/-- R260: WindowUpdate encode; the flags are forced to 0, bit 31 of both words is cleared. -/
def Obligations.WindowUpdateWriteOutcome : Prop :=
  ∀ (f : WindowUpdateCmd) (s : State),
    s.canWrite → (Instr.windowUpdate (.write f)).wellFormed = true →
    (f.streamId % 2 ^ 31 = 0 → exec (.windowUpdate (.write f)) s = .next (s.writeRaised .zeroStreamId 0)) ∧
    (f.streamId % 2 ^ 31 ≠ 0 →
      s.emits s
        ([0x80#8, 0x03#8, 0x00#8, 0x09#8, 0x00#8, 0x00#8, 0x00#8, 0x08#8] ++
          be32 (BitVec.ofNat 32 (f.streamId % 2 ^ 31)) ++ be32 (BitVec.ofNat 32 (f.deltaWindowSize % 2 ^ 31)))
        (exec (.windowUpdate (.write f)) s))

/-- R300: Data encode; bit 31, then the length, then the zero check; the payload is carried unchanged. -/
def Obligations.DataWriteOutcome : Prop :=
  ∀ (f : DataCmd) (s : State),
    s.canWrite → (Instr.data (.write f)).wellFormed = true →
    (f.streamId ≥ 2 ^ 31 →
      exec (.data (.write f)) s = .next (s.writeRaised .invalidDataFrame (BitVec.ofNat 31 f.streamId))) ∧
    (f.streamId < 2 ^ 31 → f.data.length > s.cfg.dataMaxLen.toNat →
      exec (.data (.write f)) s = .next (s.writeRaised .invalidDataFrame (BitVec.ofNat 31 f.streamId))) ∧
    (f.streamId = 0 → f.data.length ≤ s.cfg.dataMaxLen.toNat →
      exec (.data (.write f)) s = .next (s.writeRaised .zeroStreamId 0)) ∧
    (0 < f.streamId → f.streamId < 2 ^ 31 → f.data.length ≤ s.cfg.dataMaxLen.toNat →
      s.emits s
        (be32 (BitVec.ofNat 32 f.streamId) ++ [BitVec.ofNat 8 f.flags] ++ be24 (BitVec.ofNat 24 f.data.length) ++ f.data)
        (exec (.data (.write f)) s))

/-- R121: WRITE_FRAME of a kind outside the nine raises UnknownFrameType(0); nothing is emitted, nothing else changes. -/
def Obligations.UnknownKindWriteOutcome : Prop :=
  ∀ (f : UnknownCmd) (s : State),
    s.canWrite → f.kindCode < 2 ^ 16 → f.kindCode ∉ [1, 2, 3, 4, 6, 7, 8, 9] →
    exec (Command.control f).toInstr s = .next (s.writeRaised .unknownFrameType 0)

/-! ## READ_FRAME, variant by variant -/

/-- R206 with R175 to R178 and R201: SynStream decode, in both modes. -/
def Obligations.SynStreamReadOutcome : Prop :=
  ∀ (h : ReadHeader) (hdr payload : Bytes) (s : State),
    s.canRead → hdr.length = 8 → s.rh.source.bytes = hdr ++ payload →
    (s.cfg.nocomp = false → h.length.toNat < 10 →
      exec (.synStream (.read h)) s = .next (s.readBroke 8 .invalidControlFrame)) ∧
    ((s.cfg.nocomp = true ∨ 10 ≤ h.length.toNat) → payload.length < 10 → s.runsShort (exec (.synStream (.read h)) s)) ∧
    ((s.cfg.nocomp = true ∨ 10 ≤ h.length.toNat) →
      ∀ (w1 w2 : Word) (pb slot : Byte) (blk : Bytes), payload = be32 w1 ++ be32 w2 ++ [pb, slot] ++ blk →
        s.endsBlock h.length.toNat 10 blk (w1.extractLsb' 0 31) .request
          (fun m => .synStream ⟨h.version, 0x0001#16, h.flags, h.length⟩ (w1.extractLsb' 0 31) (w2.extractLsb' 0 31)
            (pb.extractLsb' 5 3) slot m)
          (exec (.synStream (.read h)) s))

/-- R211 with R175 to R178 and R201: SynReply decode, in both modes. -/
def Obligations.SynReplyReadOutcome : Prop :=
  ∀ (h : ReadHeader) (hdr payload : Bytes) (s : State),
    s.canRead → hdr.length = 8 → s.rh.source.bytes = hdr ++ payload →
    (s.cfg.nocomp = false → h.length.toNat < 4 →
      exec (.synReply (.read h)) s = .next (s.readBroke 8 .invalidControlFrame)) ∧
    ((s.cfg.nocomp = true ∨ 4 ≤ h.length.toNat) → payload.length < 4 → s.runsShort (exec (.synReply (.read h)) s)) ∧
    ((s.cfg.nocomp = true ∨ 4 ≤ h.length.toNat) →
      ∀ (w1 : Word) (blk : Bytes), payload = be32 w1 ++ blk →
        s.endsBlock h.length.toNat 4 blk (w1.extractLsb' 0 31) .response
          (fun m => .synReply ⟨h.version, 0x0002#16, h.flags, h.length⟩ (w1.extractLsb' 0 31) m)
          (exec (.synReply (.read h)) s))

/-- R216 with R161, R175 to R178 and R201: Headers decode, in both modes and under both parities. -/
def Obligations.HeadersReadOutcome : Prop :=
  ∀ (h : ReadHeader) (hdr payload : Bytes) (s : State),
    s.canRead → hdr.length = 8 → s.rh.source.bytes = hdr ++ payload →
    (s.cfg.nocomp = false → h.length.toNat < 4 →
      exec (.headers (.read h)) s = .next (s.readBroke 8 .invalidControlFrame)) ∧
    ((s.cfg.nocomp = true ∨ 4 ≤ h.length.toNat) → payload.length < 4 → s.runsShort (exec (.headers (.read h)) s)) ∧
    ((s.cfg.nocomp = true ∨ 4 ≤ h.length.toNat) →
      ∀ (w1 : Word) (blk : Bytes), payload = be32 w1 ++ blk →
        s.endsBlock h.length.toNat 4 blk (w1.extractLsb' 0 31)
          (if (w1.toNat % 2 = 1 ↔ s.cfg.headersParity = .convention) then .request else .response)
          (fun m => .headers ⟨h.version, 0x0008#16, h.flags, h.length⟩ (w1.extractLsb' 0 31) m)
          (exec (.headers (.read h)) s))

/-- R241: RstStream decode; the status check, then the zero check, both on masked fields; the length is not checked. -/
def Obligations.RstStreamReadOutcome : Prop :=
  ∀ (h : ReadHeader) (hdr payload : Bytes) (s : State),
    s.canRead → hdr.length = 8 → s.rh.source.bytes = hdr ++ payload →
    (payload.length < 8 → s.runsShort (exec (.rstStream (.read h)) s)) ∧
    ∀ (w1 w2 : Word) (rest : Bytes), payload = be32 w1 ++ be32 w2 ++ rest →
      exec (.rstStream (.read h)) s =
        .next (s.readEnded 16
          (if w2 = 0 then .raised .invalidControlFrame (w1.extractLsb' 0 31) []
          else if w1.extractLsb' 0 31 = 0 then .raised .zeroStreamId 0 []
          else .returned (.rstStream ⟨h.version, 0x0003#16, h.flags, h.length⟩ (w1.extractLsb' 0 31) w2) []))

/-- R246: Settings decode; the count says how many entries are read. -/
def Obligations.SettingsReadOutcome : Prop :=
  ∀ (h : ReadHeader) (hdr payload : Bytes) (s : State),
    s.canRead → hdr.length = 8 → s.rh.source.bytes = hdr ++ payload →
    (payload.length < 4 → s.runsShort (exec (.settings (.read h)) s)) ∧
    (∀ (n : Word) (rest : Bytes), payload = be32 n ++ rest → rest.length < 8 * n.toNat →
      s.runsShort (exec (.settings (.read h)) s)) ∧
    ∀ (n : Word) (es : List SettingsEntry) (rest : Bytes), es.length = n.toNat →
      payload = be32 n ++ es.flatMap SettingsEntry.wire ++ rest →
      exec (.settings (.read h)) s =
        .next (s.readEnded (12 + 8 * n.toNat)
          (.returned (.settings ⟨h.version, 0x0004#16, h.flags, h.length⟩ es) []))

/-- R251: Ping decode; the flags check, then the zero check; the length is not checked. -/
def Obligations.PingReadOutcome : Prop :=
  ∀ (h : ReadHeader) (hdr payload : Bytes) (s : State),
    s.canRead → hdr.length = 8 → s.rh.source.bytes = hdr ++ payload →
    (payload.length < 4 → s.runsShort (exec (.ping (.read h)) s)) ∧
    ∀ (id : Word) (rest : Bytes), payload = be32 id ++ rest →
      exec (.ping (.read h)) s =
        .next (s.readEnded 12
          (if h.flags ≠ 0 then .raised .invalidControlFrame 0 []
          else if id = 0 then .raised .zeroStreamId 0 []
          else .returned (.ping ⟨h.version, 0x0006#16, 0, h.length⟩ id) []))

/-- R256: GoAway decode; flags and wire length are checked after the 8 bytes are consumed, the fields are not. -/
def Obligations.GoAwayReadOutcome : Prop :=
  ∀ (h : ReadHeader) (hdr payload : Bytes) (s : State),
    s.canRead → hdr.length = 8 → s.rh.source.bytes = hdr ++ payload →
    (payload.length < 8 → s.runsShort (exec (.goAway (.read h)) s)) ∧
    ∀ (w1 w2 : Word) (rest : Bytes), payload = be32 w1 ++ be32 w2 ++ rest →
      exec (.goAway (.read h)) s =
        .next (s.readEnded 16
          (if h.flags ≠ 0 ∨ h.length ≠ 8 then .raised .invalidControlFrame 0 []
          else .returned (.goAway ⟨h.version, 0x0007#16, 0, 8⟩ (w1.extractLsb' 0 31) w2) []))

/-- R261: WindowUpdate decode; flags and wire length, then the zero check. -/
def Obligations.WindowUpdateReadOutcome : Prop :=
  ∀ (h : ReadHeader) (hdr payload : Bytes) (s : State),
    s.canRead → hdr.length = 8 → s.rh.source.bytes = hdr ++ payload →
    (payload.length < 8 → s.runsShort (exec (.windowUpdate (.read h)) s)) ∧
    ∀ (w1 w2 : Word) (rest : Bytes), payload = be32 w1 ++ be32 w2 ++ rest →
      exec (.windowUpdate (.read h)) s =
        .next (s.readEnded 16
          (if h.flags ≠ 0 ∨ h.length ≠ 8 then .raised .invalidControlFrame (w1.extractLsb' 0 31) []
          else if w1.extractLsb' 0 31 = 0 then .raised .zeroStreamId 0 []
          else
            .returned (.windowUpdate ⟨h.version, 0x0009#16, 0, 8⟩ (w1.extractLsb' 0 31) (w2.extractLsb' 0 31)) []))

/-- R301: Data decode; the payload is consumed before the zero check and returned unchanged. -/
def Obligations.DataReadOutcome : Prop :=
  ∀ (h : DataHeader) (hdr payload : Bytes) (s : State),
    s.canRead → hdr.length = 8 → s.rh.source.bytes = hdr ++ payload →
    (payload.length < h.length.toNat → s.runsShort (exec (.data (.read h)) s)) ∧
    (h.length.toNat ≤ payload.length →
      exec (.data (.read h)) s =
        .next (s.readEnded (8 + h.length.toNat)
          (if h.streamId = 0 then .raised .zeroStreamId 0 []
          else .returned (.data h.streamId h.flags (payload.take h.length.toNat)) [])))

/-- R131: a control frame whose type is none of the eight gives InvalidControlFrame(0) with exactly its 8 header bytes consumed
and the half READY. -/
def Obligations.UnknownTypeReadOutcome : Prop :=
  ∀ (w0 w1 : Word) (payload : Bytes) (s : State),
    s.canRead → s.rh.source.bytes = be32 w0 ++ be32 w1 ++ payload →
    w0 &&& 0x80000000#32 = 0x80000000#32 → (∀ t ∈ [1, 2, 3, 4, 6, 7, 8, 9], w0 &&& 0xFFFF#32 ≠ BitVec.ofNat 32 t) →
    readStep s = .next (s.readEnded 8 (.raised .invalidControlFrame 0 []))

/-- R130: a source that ends within the header: the clean end before the first byte, an IoError that breaks the half after
it. -/
def Obligations.TruncatedHeaderOutcome : Prop :=
  ∀ s : State, s.canRead → s.rh.source.bytes.length < 8 →
    (s.rh.source.bytes = [] → s.rh.source.ending = .eof →
      readStep s = .next (s.readEnded 0 (.raised .endOfStream 0 []))) ∧
    ((s.rh.source.bytes ≠ [] ∨ s.rh.source.ending ≠ .eof) → s.runsShort (readStep s))

/-! ## Faults, refusals, run states -/

/-- R331: an operation on a BROKEN half faults with BROKEN_HALF. -/
def Obligations.BrokenHalfFaults : Prop :=
  ∀ (i : Instr) (s : State), s.life = .live →
    (i.isRead = false → s.wh.run = .broken → exec i s = .fault (.brokenHalf .write)) ∧
    (i.isRead = true → s.rh.run = .broken → exec i s = .fault (.brokenHalf .read))

/-- R102, R329: a command is refused exactly when a field of it is over its width or a list, a name or a joined value is too long,
and then no state changes. The model's choices: the version, type and length a host supplies are not looked at (log 18), and the
constructor of the unknown kinds does not hold a known kind's code, which the port hands to that kind's own (log 17). -/
def Obligations.IllFormedCommandsAreRefused : Prop :=
  ∀ s : State, s.canWrite →
    (∀ f : SynStreamCmd, exec (.synStream (.write f)) s = .refused .notWellFormed ↔
      2 ^ 8 ≤ f.flags ∨ 2 ^ 32 ≤ f.streamId ∨ 2 ^ 32 ≤ f.associatedStreamId ∨ 8 ≤ f.priority ∨ 2 ^ 8 ≤ f.slot ∨
        overLimits f.headers) ∧
    (∀ f : SynReplyCmd, exec (.synReply (.write f)) s = .refused .notWellFormed ↔
      2 ^ 8 ≤ f.flags ∨ 2 ^ 32 ≤ f.streamId ∨ overLimits f.headers) ∧
    (∀ f : RstStreamCmd, exec (.rstStream (.write f)) s = .refused .notWellFormed ↔
      2 ^ 8 ≤ f.flags ∨ 2 ^ 32 ≤ f.streamId ∨ 2 ^ 32 ≤ f.status) ∧
    (∀ f : SettingsCmd, exec (.settings (.write f)) s = .refused .notWellFormed ↔
      2 ^ 8 ≤ f.flags ∨ 2 ^ 32 ≤ f.entries.length ∨
        ∃ e ∈ f.entries, 2 ^ 8 ≤ e.flag ∨ 2 ^ 24 ≤ e.id ∨ 2 ^ 32 ≤ e.value) ∧
    (∀ f : PingCmd, exec (.ping (.write f)) s = .refused .notWellFormed ↔ 2 ^ 8 ≤ f.flags ∨ 2 ^ 32 ≤ f.id) ∧
    (∀ f : GoAwayCmd, exec (.goAway (.write f)) s = .refused .notWellFormed ↔
      2 ^ 8 ≤ f.flags ∨ 2 ^ 32 ≤ f.lastGoodStreamId ∨ 2 ^ 32 ≤ f.status) ∧
    (∀ f : HeadersCmd, exec (.headers (.write f)) s = .refused .notWellFormed ↔
      2 ^ 8 ≤ f.flags ∨ 2 ^ 32 ≤ f.streamId ∨ overLimits f.headers) ∧
    (∀ f : WindowUpdateCmd, exec (.windowUpdate (.write f)) s = .refused .notWellFormed ↔
      2 ^ 8 ≤ f.flags ∨ 2 ^ 32 ≤ f.streamId ∨ 2 ^ 32 ≤ f.deltaWindowSize) ∧
    (∀ f : DataCmd, exec (.data (.write f)) s = .refused .notWellFormed ↔ 2 ^ 32 ≤ f.streamId ∨ 2 ^ 8 ≤ f.flags) ∧
    (∀ f : UnknownCmd, exec (.unknownControlType (.write f)) s = .refused .notWellFormed ↔
      2 ^ 16 ≤ f.kindCode ∨ f.kindCode ∈ [1, 2, 3, 4, 6, 7, 8, 9]) ∧
    ∀ f : UnknownCmd, 2 ^ 16 ≤ f.kindCode → exec (Command.control f).toInstr s = .refused .notWellFormed

/-- R363: release from READY or BROKEN halves frees the engines and the scratch buffer and writes nothing; it must not overlap an
operation; no operation and no second release may follow. That an operation on a half that was BROKEN is then refused, where R331
faults it, is the model's choice (log 30). -/
def Obligations.ReleaseEndsTheBlock : Prop :=
  ∀ (s : State) (rest : List HostAction),
    (s.life = .live → (s.wh.request ≠ none ∨ s.rh.request = true) →
      hostAction .release rest s = .refused .overlap) ∧
    (s.life = .live → s.wh.request = none → s.rh.request = false →
      hostAction .release rest s =
        .next
          { s with
            life := .released, host := rest, wh := { s.wh with zc := none, scratch := [] }
            rh := { s.rh with zd := none } }) ∧
    (s.life = .released → hostAction .release rest s = .refused .released ∧ ∀ i, exec i s = .refused .released)

/-- R58, R370: a port takes one request at a time; a second one is refused. That a free port latches the request and nothing else
changes, whatever the life of the block (R361, R363 then refuse it at its step), is the model's choice (log 14). -/
def Obligations.OverlappingRequestsAreRefused : Prop :=
  ∀ (s : State) (f : Command) (rest : List HostAction),
    (s.wh.request ≠ none → hostAction (.writeFrame f) rest s = .refused .overlap) ∧
    (s.rh.request = true → hostAction .readFrame rest s = .refused .overlap) ∧
    (s.wh.request = none →
      hostAction (.writeFrame f) rest s = .next { s with wh := { s.wh with request := some f }, host := rest }) ∧
    (s.rh.request = false →
      hostAction .readFrame rest s = .next { s with rh := { s.rh with request := true }, host := rest })

/-- R350: DISCARD(n) between READ_FRAMEs consumes n source bytes and advances RH.src_pos by n; that it needs no live block and no
READY half is the model's reading (log 15). -/
def Obligations.DiscardConsumesSourceBytes : Prop :=
  ∀ (s : State) (n : Nat) (rest : List HostAction), s.rh.request = false → n ≤ s.rh.source.bytes.length →
    hostAction (.discard n) rest s =
      .next
        { s with
          host := rest
          rh :=
            { s.rh with
              srcPos := s.rh.srcPos + n
              source := { s.rh.source with bytes := s.rh.source.bytes.drop n } } }

/-- R330: an operation that returns a result leaves its half BROKEN exactly in the rows that say so, and one that returns none
leaves the run states alone. -/
def Obligations.HalvesBreakExactlyInTheRowsOfR330 : Prop :=
  ∀ (i : Instr) (s t : State), exec i s = .next t →
    (∀ r, i.isRead = false → t.wh.responses = s.wh.responses ++ [r] →
      (t.wh.run = .broken ↔ r.status.breaks (headerBearing i) s.cfg.nocomp = true)) ∧
    (∀ r, i.isRead = true → t.rh.responses = s.rh.responses ++ [r] →
      (t.rh.run = .broken ↔ r.status.breaks (headerBearing i) s.cfg.nocomp = true)) ∧
    (t.wh.responses = s.wh.responses → t.wh.run = s.wh.run) ∧ (t.rh.responses = s.rh.responses → t.rh.run = s.rh.run)

/-- The model's choice (log 12): an operation that waits for its port returns nothing and changes nothing, and what returns nothing
has waited. A WRITE_FRAME waits exactly where its sink falls silent within the frame it would write to a sink that accepts. A
READ_FRAME waits exactly where it would meet the error of a source that fails after the same bytes; else the silence behind the
frame changes nothing for it. -/
def Obligations.WaitingChangesNothing : Prop :=
  (∀ (i : Instr) (s t : State), exec i s = .next t →
    (i.isRead = false → t.wh.responses = s.wh.responses → t = s) ∧
    (i.isRead = true → t.rh.responses = s.rh.responses → t = s)) ∧
  (∀ (f : GoAwayCmd) (s : State) (room : Nat), s.canWrite → f.wellFormed = true → s.wh.sink.port = .silentAfter room →
    room < 16 → exec (.goAway (.write f)) s = .next s) ∧
  (∀ s : State, s.canRead → s.rh.source.bytes.length < 8 → s.rh.source.ending = .silent → readStep s = .next s) ∧
  (∀ (i : Instr) (s t : State) (room : Nat), i.isRead = false → s.wh.sink.port = .silentAfter room →
    exec i (s.withSinkPort .accepts) = .next t →
    if s.wh.sink.accepted.length + room < t.wh.sink.accepted.length then exec i s = .next s
    else ∃ left, exec i s = .next (t.withSinkPort (.silentAfter left))) ∧
  ∀ (i : Instr) (s t : State) (e : Nat), i.isRead = true → s.rh.source.ending = .silent →
    exec i (s.withSourceEnd (.error e)) = .next t →
    if t.rh.responses = s.rh.responses ++ [⟨.ioError (.transport e), 0, none, []⟩] then exec i s = .next s
    else exec i s = .next (t.withSourceEnd .silent)

/-- An error of WRITE_FRAME other than a transport error emits no byte; an OK leaves the half READY with an empty scratch
buffer. -/
def Obligations.ErrorsEmitNothing : Prop :=
  ∀ (i : Instr) (s t : State) (r : WResult), exec i s = .next t → t.wh.responses = s.wh.responses ++ [r] →
    s.wh.scratch = [] →
    ((r.status ≠ .ok ∧ ∀ e, r.status ≠ .ioError e) → t.wh.sink = s.wh.sink ∧ t.wh.sinkPos = s.wh.sinkPos) ∧
    (r.status = .ok → t.wh.run = .ready ∧ t.wh.scratch = [])

/-! ## Frames -/

/-- What a WRITE_FRAME leaves unchanged: everything of the read half, the configuration, the life and the outside; of the sink
every byte it had accepted; the compressor, but for a header-bearing frame in compressed mode. What it appends is a front part
of the frame, for every frame but those. -/
def Obligations.WriteFrameLeavesTheRest : Prop :=
  ∀ (i : Instr) (s t : State), i.isRead = false → exec i s = .next t →
    t.cfg = s.cfg ∧ t.rh = s.rh ∧ t.life = s.life ∧ t.resetResult = s.resetResult ∧ t.host = s.host ∧ t.turns = s.turns ∧
    ((headerBearing i = false ∨ s.cfg.nocomp = true) → t.wh.zc = s.wh.zc) ∧
    ∃ part, t.wh.sink.accepted = s.wh.sink.accepted ++ part ∧ t.wh.sinkPos = s.wh.sinkPos + part.length ∧
      ((headerBearing i = false ∨ (s.cfg.nocomp = true ∧ s.wh.scratch = [])) → part <+: encode i)

/-- What a READ_FRAME leaves unchanged: everything of the write half, the configuration, the life and the outside; the source's
end and the bytes it does not consume; the decompressor and the fence, but for a header-bearing frame in compressed mode. -/
def Obligations.ReadFrameLeavesTheRest : Prop :=
  ∀ (i : Instr) (s t : State), i.isRead = true → exec i s = .next t →
    t.cfg = s.cfg ∧ t.wh = s.wh ∧ t.life = s.life ∧ t.resetResult = s.resetResult ∧ t.host = s.host ∧ t.turns = s.turns ∧
    ((headerBearing i = false ∨ s.cfg.nocomp = true) →
      t.rh.zd = s.rh.zd ∧ t.rh.fence = s.rh.fence ∧ t.rh.draws = s.rh.draws) ∧
    t.rh.source.ending = s.rh.source.ending ∧
    ∃ n, n ≤ s.rh.source.bytes.length ∧ t.rh.source.bytes = s.rh.source.bytes.drop n ∧ t.rh.srcPos = s.rh.srcPos + n

/-! ## The step -/

/-- A READ_FRAME in progress whose next eight bytes decode to an instruction runs exactly it, when the read half's turn is named
and when none is; while the source does not answer, a step without a named turn goes on to the write half and the host. Turns and
the order without one are the model's (log 13). -/
def Obligations.StepRunsTheDecodedInstruction : Prop :=
  ∀ (s : State) (i : Instr) (rest : Bytes), s.rh.request = true → decode s.rh.source.bytes = .ok (i, rest) →
    (∀ ts, s.turns = .half .read :: ts → step s = exec i { s with turns := ts }) ∧
    (s.turns = [] →
      (∀ t, exec i s = .next t → t.rh.request = false → step s = .next t) ∧
      (∀ t, exec i s = .next t → t.rh.request = true → step s = writeOrHostStep s) ∧
      (∀ r, exec i s = .fault r → step s = .fault r) ∧
      (∀ r, exec i s = .refused r → step s = .refused r))

/-- A WRITE_FRAME in progress runs the instruction of its command, when the write half's turn is named and when none is and the
read half has no operation in progress (the order is the model's, log 13). -/
def Obligations.StepRunsTheCommand : Prop :=
  ∀ (s : State) (f : Command), s.wh.request = some f →
    (∀ ts, s.turns = .half .write :: ts → step s = exec f.toInstr { s with turns := ts }) ∧
    (s.turns = [] → s.rh.request = false →
      (∀ t, exec f.toInstr s = .next t → t.wh.request = none → step s = .next t) ∧
      (∀ t, exec f.toInstr s = .next t → t.wh.request ≠ none → step s = hostStep s) ∧
      (∀ r, exec f.toInstr s = .fault r → step s = .fault r) ∧
      (∀ r, exec f.toInstr s = .refused r → step s = .refused r))

/-- A table word placed for the fetch is the instruction the next step runs (log 22). -/
def Obligations.PlacedWordIsRunNext : Prop :=
  ∀ (s : State) (nbits w : Nat) (i : Instr) (t : State), decodeTableWord nbits w = some i →
    exec i (s.withFetchWord nbits w) = .next t → t.rh.request = false →
    step (s.withFetchWord nbits w) = .next t

/-- R351: a run that has ended with nothing left to do stays as it is: it ends well with the outcome it shows, whatever steps follow.
A recorded fault or refusal stays recorded, and such a run is never a successful end. The model's choices: that a step of an ended
run exists and changes nothing (log 13), and that a recorded fault or refusal ends the run of both halves (log 33). -/
def Obligations.AnEndedRunStaysAsItIs : Prop :=
  (∀ s : State, s.wh.request = none → s.rh.request = false → s.host = [] → s.turns = [] → step s = .next s) ∧
  (∀ (n : Nat) (s : State), s.settled → endsWell n s ∧ runOutcome n s = s.outcome none) ∧
  ∀ (n m : Nat) (s : State), (run n s).2 ≠ none → run (n + m) s = run n s ∧ ¬ endsWell (n + m) s

/-- R20, R23, R33: only RESET writes the configuration or makes a BROKEN half READY again. -/
def Obligations.OnlyResetChangesConfigOrRevives : Prop :=
  ∀ s t : State, step s = .next t →
    (t.cfg = s.cfg ∧ (s.wh.run = .broken → t.wh.run = .broken) ∧ (s.rh.run = .broken → t.rh.run = .broken)) ∨
    ∃ nocomp ok port source rest, s.host = .reset nocomp ok port source :: rest ∧ t.host = rest

/-! ## Invariants -/

/-- The state right after reset meets the invariant. -/
def Obligations.ResetMeetsTheInvariant : Prop := State.reset.Inv

/-- Every step keeps the invariant, from every state that meets it. -/
def Obligations.StepKeepsTheInvariant : Prop :=
  ∀ s t : State, s.Inv → step s = .next t → t.Inv

/-! ## The two halves -/

/-- An operation of the write half and one of the read half, done in either order, leave the same state: what R337 says of
interleavings, which the spec marks as its own inference from R3 and R20. -/
def Obligations.HalvesCommute : Prop :=
  ∀ (iw ir : Instr) (s sw sr : State), iw.isRead = false → ir.isRead = true →
    exec iw s = .next sw → exec ir s = .next sr →
    ∃ t, exec ir sw = .next t ∧ exec iw sr = .next t

/-- What READ_FRAME does with the read half depends on nothing of the write half, and the other way round: why R337's inference
holds. -/
def Obligations.HalvesDoNotSeeEachOther : Prop :=
  (∀ (i : Instr) (s t : State) (wh : WriteHalf), i.isRead = true → exec i s = .next t →
    exec i { s with wh := wh } = .next { t with wh := wh }) ∧
  (∀ (i : Instr) (s t : State) (rh : ReadHalf), i.isRead = false → exec i s = .next t →
    exec i { s with rh := rh } = .next { t with rh := rh })

/-! ## Round trips -/

/-- What the encoder emits for a fixed-layout or data command, the decoder reads back: the same field values, 31-bit fields
masked, reserved flags 0. -/
def Obligations.FixedFramesRoundTrip : Prop :=
  ∀ (s : State) (rest : Bytes), s.canRead →
    (∀ f : RstStreamCmd, f.wellFormed = true → f.status ≠ 0 → f.streamId % 2 ^ 31 ≠ 0 →
      s.rh.source.bytes = encode (.rstStream (.write f)) ++ rest →
      readStep s = .next (s.readEnded 16 (.returned
        (.rstStream ⟨3, 0x0003#16, BitVec.ofNat 8 f.flags, 8⟩ (BitVec.ofNat 31 f.streamId) (BitVec.ofNat 32 f.status)) []))) ∧
    (∀ f : SettingsCmd, f.wellFormed = true → f.entries.length ≤ 2097151 →
      s.rh.source.bytes = encode (.settings (.write f)) ++ rest →
      readStep s = .next (s.readEnded (12 + 8 * f.entries.length) (.returned
        (.settings ⟨3, 0x0004#16, BitVec.ofNat 8 f.flags, BitVec.ofNat 24 (4 + 8 * f.entries.length)⟩
          (f.entries.map fun e => ⟨BitVec.ofNat 8 e.flag, BitVec.ofNat 24 e.id, BitVec.ofNat 32 e.value⟩)) []))) ∧
    (∀ f : PingCmd, f.wellFormed = true → f.id ≠ 0 →
      s.rh.source.bytes = encode (.ping (.write f)) ++ rest →
      readStep s = .next (s.readEnded 12 (.returned (.ping ⟨3, 0x0006#16, 0, 4⟩ (BitVec.ofNat 32 f.id)) []))) ∧
    (∀ f : GoAwayCmd, f.wellFormed = true →
      s.rh.source.bytes = encode (.goAway (.write f)) ++ rest →
      readStep s = .next (s.readEnded 16 (.returned
        (.goAway ⟨3, 0x0007#16, 0, 8⟩ (BitVec.ofNat 31 f.lastGoodStreamId) (BitVec.ofNat 32 f.status)) []))) ∧
    (∀ f : WindowUpdateCmd, f.wellFormed = true → f.streamId % 2 ^ 31 ≠ 0 →
      s.rh.source.bytes = encode (.windowUpdate (.write f)) ++ rest →
      readStep s = .next (s.readEnded 16 (.returned
        (.windowUpdate ⟨3, 0x0009#16, 0, 8⟩ (BitVec.ofNat 31 f.streamId) (BitVec.ofNat 31 f.deltaWindowSize)) []))) ∧
    (∀ f : DataCmd, f.wellFormed = true → 0 < f.streamId → f.streamId < 2 ^ 31 → f.data.length ≤ 0xFFFFFF →
      s.rh.source.bytes = encode (.data (.write f)) ++ rest →
      readStep s = .next (s.readEnded (8 + f.data.length) (.returned
        (.data (BitVec.ofNat 31 f.streamId) (BitVec.ofNat 8 f.flags) f.data) [])))

/-- In raw mode, what the encoder emits for a header-bearing command with canonical headers and no banned name, the decoder reads
back: the same field values and header list, no diagnostic. -/
def Obligations.RawHeaderFramesRoundTrip : Prop :=
  ∀ (s : State) (rest : Bytes), s.canRead → s.cfg.nocomp = true →
    (∀ f : SynStreamCmd, f.wellFormed = true → f.streamId % 2 ^ 31 ≠ 0 → canonicalHeaders f.headers = true →
      (∀ e ∈ f.headers, e.name ∉ BannedSet.request.names) →
      s.rh.source.bytes = encode (.synStream (.write f)) ++ rest →
      readStep s = .next (s.readEnded (18 + (hbSerialize f.headers).length) (.returned
        (.synStream ⟨3, 0x0001#16, BitVec.ofNat 8 f.flags, BitVec.ofNat 24 (10 + (hbSerialize f.headers).length)⟩
          (BitVec.ofNat 31 f.streamId) (BitVec.ofNat 31 f.associatedStreamId) (BitVec.ofNat 3 f.priority)
          (BitVec.ofNat 8 f.slot) f.headers) []))) ∧
    (∀ f : SynReplyCmd, f.wellFormed = true → f.streamId % 2 ^ 31 ≠ 0 → canonicalHeaders f.headers = true →
      (∀ e ∈ f.headers, e.name ∉ BannedSet.response.names) →
      s.rh.source.bytes = encode (.synReply (.write f)) ++ rest →
      readStep s = .next (s.readEnded (12 + (hbSerialize f.headers).length) (.returned
        (.synReply ⟨3, 0x0002#16, BitVec.ofNat 8 f.flags, BitVec.ofNat 24 (4 + (hbSerialize f.headers).length)⟩
          (BitVec.ofNat 31 f.streamId) f.headers) []))) ∧
    (∀ f : HeadersCmd, f.wellFormed = true → f.streamId % 2 ^ 31 ≠ 0 → canonicalHeaders f.headers = true →
      (∀ e ∈ f.headers, e.name ∉ (headersBannedSet s.cfg.headersParity (BitVec.ofNat 31 f.streamId)).names) →
      s.rh.source.bytes = encode (.headers (.write f)) ++ rest →
      readStep s = .next (s.readEnded (12 + (hbSerialize f.headers).length) (.returned
        (.headers ⟨3, 0x0008#16, BitVec.ofNat 8 f.flags, BitVec.ofNat 24 (4 + (hbSerialize f.headers).length)⟩
          (BitVec.ofNat 31 f.streamId) f.headers) [])))

/-- P-RT at work, for any engine: a header-bearing frame compressed by an engine in step with the decompressor that reads it is
decoded to the same fields and header list with no diagnostic and the fence at 0, and the two engines are in step afterwards; so,
frame after frame, N header blocks arrive in order. -/
def Obligations.CompressedFramesRoundTripInStep : Prop :=
  ∀ (eng : Engine) (cfg : Cfg) (cs : CState) (ds : DState) (wh : WriteHalf) (rh : ReadHalf) (rest : Bytes),
    cfg.nocomp = false → eng.inStep cs ds → wh.zc = some cs → wh.scratch = [] → wh.sink.port = .accepts →
    (rh.zd = some ds ∨ (rh.zd = none ∧ ds = eng.inflateInit cfg.dict)) →
    (∀ f : SynStreamCmd, f.wellFormed = true → f.streamId % 2 ^ 31 ≠ 0 → canonicalHeaders f.headers = true →
      (∀ e ∈ f.headers, e.name ∉ BannedSet.request.names) →
      10 + (eng.deflateBlock cs (hbSerialize f.headers)).2.length ≤ 0xFFFFFF →
      let len := BitVec.ofNat 24 (10 + (eng.deflateBlock cs (hbSerialize f.headers)).2.length)
      let h : ReadHeader := ⟨3, BitVec.ofNat 8 f.flags, len⟩
      carriesBlock eng (wrSynStream eng cfg f) h (.synStream (.read h)) (rdSynStream eng cfg h) 10
        (.synStream ⟨3, 0x0001#16, BitVec.ofNat 8 f.flags, len⟩ (BitVec.ofNat 31 f.streamId)
          (BitVec.ofNat 31 f.associatedStreamId) (BitVec.ofNat 3 f.priority) (BitVec.ofNat 8 f.slot) f.headers)
        wh rh rest) ∧
    (∀ f : SynReplyCmd, f.wellFormed = true → f.streamId % 2 ^ 31 ≠ 0 → canonicalHeaders f.headers = true →
      (∀ e ∈ f.headers, e.name ∉ BannedSet.response.names) →
      4 + (eng.deflateBlock cs (hbSerialize f.headers)).2.length ≤ 0xFFFFFF →
      let len := BitVec.ofNat 24 (4 + (eng.deflateBlock cs (hbSerialize f.headers)).2.length)
      let h : ReadHeader := ⟨3, BitVec.ofNat 8 f.flags, len⟩
      carriesBlock eng (wrSynReply eng cfg f) h (.synReply (.read h)) (rdSynReply eng cfg h) 4
        (.synReply ⟨3, 0x0002#16, BitVec.ofNat 8 f.flags, len⟩ (BitVec.ofNat 31 f.streamId) f.headers) wh rh rest) ∧
    ∀ f : HeadersCmd, f.wellFormed = true → f.streamId % 2 ^ 31 ≠ 0 → canonicalHeaders f.headers = true →
      (∀ e ∈ f.headers, e.name ∉ (headersBannedSet cfg.headersParity (BitVec.ofNat 31 f.streamId)).names) →
      4 + (eng.deflateBlock cs (hbSerialize f.headers)).2.length ≤ 0xFFFFFF →
      let len := BitVec.ofNat 24 (4 + (eng.deflateBlock cs (hbSerialize f.headers)).2.length)
      let h : ReadHeader := ⟨3, BitVec.ofNat 8 f.flags, len⟩
      carriesBlock eng (wrHeaders eng cfg f) h (.headers (.read h)) (rdHeaders eng cfg h) 4
        (.headers ⟨3, 0x0008#16, BitVec.ofNat 8 f.flags, len⟩ (BitVec.ofNat 31 f.streamId) f.headers) wh rh rest

/-- P-TRUNC at work, for any engine: a header-bearing frame whose compressed tail lacks bytes, with the length field reduced to
match, gives WrongCompressedPayloadSize and a BROKEN half. Engine.truncatesAll gives the premise at every block. -/
def Obligations.TruncatedCompressedBlocksAreRejected : Prop :=
  ∀ (eng : Engine) (cfg : Cfg) (hl : HeaderList) (cs : CState) (ds : DState) (rh : ReadHalf) (h : ReadHeader)
    (rd : ReadHalf → Option ReadHalf) (fixed : Nat) (hdr fields rest : Bytes) (n : Nat),
    cfg.nocomp = false → eng.truncates cs ds (hbSerialize hl) → headerListWellFormed hl = true →
    (rh.zd = some ds ∨ (rh.zd = none ∧ ds = eng.inflateInit cfg.dict)) → headerRule eng cfg h rd fixed →
    n < (eng.deflateBlock cs (hbSerialize hl)).2.length → h.length.toNat = fixed + n →
    hdr.length = 8 → fields.length = fixed →
    rh.source.bytes = hdr ++ fields ++ (eng.deflateBlock cs (hbSerialize hl)).2.take n ++ rest →
    ∃ rh', readHeader rh rd = some rh' ∧ rh'.run = .broken ∧ rh'.source.bytes = rest ∧
      rh'.responses = rh.responses ++ [⟨.wrongCompressedPayloadSize, 0, none, []⟩]

/-- P-DICT at work, for any engine: the first header-bearing frame of a peer primed with another dictionary gives ZlibError and a
BROKEN half with the frame consumed. -/
def Obligations.AnotherDictionaryIsRejected : Prop :=
  ∀ (eng : Engine) (cfg : Cfg) (dict : Bytes) (level : Nat) (b : Bytes) (rh : ReadHalf) (h : ReadHeader)
    (rd : ReadHalf → Option ReadHalf) (fixed : Nat) (hdr fields rest : Bytes),
    cfg.nocomp = false → eng.needsDictionary dict level → cfg.dict ≠ dict → rh.zd = none → headerRule eng cfg h rd fixed →
    h.length.toNat = fixed + (eng.deflateBlock (eng.deflateInit dict level) b).2.length →
    hdr.length = 8 → fields.length = fixed →
    rh.source.bytes = hdr ++ fields ++ (eng.deflateBlock (eng.deflateInit dict level) b).2 ++ rest →
    ∃ rh' z, readHeader rh rd = some rh' ∧ rh'.run = .broken ∧ rh'.source.bytes = rest ∧
      rh'.responses = rh.responses ++ [⟨.zlibError z, 0, none, []⟩]

/-- P-NONEMPTY at work, for any engine and after any blocks: a header-bearing frame written in compressed mode carries at least one
byte after its fixed fields, and the compressor has then advanced by that block. -/
def Obligations.CompressedBlocksAreNeverEmpty : Prop :=
  ∀ (eng : Engine) (cfg : Cfg) (dict : Bytes) (level : Nat) (bs : List Bytes) (wh wh' : WriteHalf),
    cfg.nocomp = false → eng.nonEmpty dict level → wh.zc = some (eng.deflated (eng.deflateInit dict level) bs) →
    wh.scratch = [] → wh'.responses = wh.responses ++ [⟨.ok, 0⟩] →
    (∀ f : SynStreamCmd, wrSynStream eng cfg f wh = some wh' →
      wh.sink.accepted.length + 8 + 10 < wh'.sink.accepted.length ∧
      wh'.zc = some (eng.deflated (eng.deflateInit dict level) (bs ++ [hbSerialize f.headers]))) ∧
    (∀ f : SynReplyCmd, wrSynReply eng cfg f wh = some wh' →
      wh.sink.accepted.length + 8 + 4 < wh'.sink.accepted.length ∧
      wh'.zc = some (eng.deflated (eng.deflateInit dict level) (bs ++ [hbSerialize f.headers]))) ∧
    ∀ f : HeadersCmd, wrHeaders eng cfg f wh = some wh' →
      wh.sink.accepted.length + 8 + 4 < wh'.sink.accepted.length ∧
      wh'.zc = some (eng.deflated (eng.deflateInit dict level) (bs ++ [hbSerialize f.headers]))
end

