-- ==== Sys2Proof/Laws/Decode.lean ====
section
/-! SUPPORT. What the byte and field functions of Decode do: each lemma unfolds its definition once. -/

namespace Sys2Proof

@[simp] theorem length_be32 (v : Word) : (be32 v).length = 4 := rfl

@[simp] theorem unbe32_extract (v : Word) :
    unbe32 (v.extractLsb' 24 8) (v.extractLsb' 16 8) (v.extractLsb' 8 8) (v.extractLsb' 0 8) = v := by
  apply BitVec.eq_of_getLsbD_eq
  intro i hi
  interval_cases i <;> simp [unbe32]

theorem be32_unbe32 (b0 b1 b2 b3 : Byte) : be32 (unbe32 b0 b1 b2 b3) = [b0, b1, b2, b3] := by
  simp only [be32, unbe32, List.cons.injEq, and_true]
  refine ⟨?_, ?_, ?_, ?_⟩ <;>
    · apply BitVec.eq_of_getLsbD_eq
      intro i hi
      interval_cases i <;> simp

/-- The word written by be32 is the word read back, and nothing else is consumed. -/
@[simp] theorem get32_be32_append (v : Word) (rest : Bytes) : get32 (be32 v ++ rest) = some (v, rest) := by
  simp [be32, get32]

@[simp] theorem get32_be32 (v : Word) : get32 (be32 v) = some (v, []) := by
  simpa using get32_be32_append v []

/-- A word read stands in the bytes as be32 writes it. -/
theorem eq_be32_of_get32 {bs rest : Bytes} {w : Word} (h : get32 bs = some (w, rest)) : bs = be32 w ++ rest := by
  match bs, h with
  | b0 :: b1 :: b2 :: b3 :: r, h =>
    simp only [get32, Option.some.injEq, Prod.mk.injEq] at h
    obtain ⟨rfl, rfl⟩ := h
    simp [be32_unbe32]

theorem get32_eq_none {bs : Bytes} : get32 bs = none ↔ bs.length < 4 := by
  match bs with
  | [] => simp [get32]
  | [_] => simp [get32]
  | [_, _] => simp [get32]
  | [_, _, _] => simp [get32]
  | _ :: _ :: _ :: _ :: r => simp [get32]

@[simp] theorem getBytes_append {n : Nat} {a rest : Bytes} (h : a.length = n) :
    getBytes n (a ++ rest) = some (a, rest) := by
  subst h; simp [getBytes]

theorem getBytes_eq_some {n : Nat} {bs a rest : Bytes} (h : getBytes n bs = some (a, rest)) :
    bs = a ++ rest ∧ a.length = n := by
  unfold getBytes at h
  split at h
  · cases h; simp; omega
  · cases h

theorem getBytes_eq_none {n : Nat} {bs : Bytes} : getBytes n bs = none ↔ bs.length < n := by
  unfold getBytes; split <;> simp <;> omega

theorem controlBit_controlWord (v : BitVec 15) (t : BitVec 16) : controlBit (controlWord v t) = true := by
  simp [controlBit, controlWord]

@[simp] theorem versionOf_controlWord (v : BitVec 15) (t : BitVec 16) : versionOf (controlWord v t) = v := by
  apply BitVec.eq_of_getLsbD_eq
  intro i hi
  interval_cases i <;> simp [versionOf, controlWord]

@[simp] theorem typeOf_controlWord (v : BitVec 15) (t : BitVec 16) : typeOf (controlWord v t) = t := by
  apply BitVec.eq_of_getLsbD_eq
  intro i hi
  interval_cases i <;> simp [typeOf, controlWord]

@[simp] theorem flagsOf_lengthWord (f : BitVec 8) (l : BitVec 24) : flagsOf (lengthWord f l) = f := by
  apply BitVec.eq_of_getLsbD_eq
  intro i hi
  interval_cases i <;> simp [flagsOf, lengthWord]

@[simp] theorem lengthOf_lengthWord (f : BitVec 8) (l : BitVec 24) : lengthOf (lengthWord f l) = l := by
  apply BitVec.eq_of_getLsbD_eq
  intro i hi
  interval_cases i <;> simp [lengthOf, lengthWord]

/-- A word is what its control fields make of it (R81). -/
theorem controlWord_fields (w : Word) (h : controlBit w = true) : controlWord (versionOf w) (typeOf w) = w := by
  apply BitVec.eq_of_getLsbD_eq
  intro i hi
  simp only [controlBit] at h
  interval_cases i <;> simp_all [controlWord, versionOf, typeOf]

/-- A word is what its data fields make of it (R83). -/
theorem dataWord_fields (w : Word) (h : controlBit w = false) : (get31 w).setWidth 32 = w := by
  apply BitVec.eq_of_getLsbD_eq
  intro i hi
  simp only [controlBit] at h
  interval_cases i <;> simp_all [get31]

/-- A word is what its flags and length make of it (R82). -/
theorem lengthWord_fields (w : Word) : lengthWord (flagsOf w) (lengthOf w) = w := by
  apply BitVec.eq_of_getLsbD_eq
  intro i hi
  interval_cases i <;> simp [lengthWord, flagsOf, lengthOf]

@[simp] theorem controlBit_data (sid : StreamId) : controlBit (sid.setWidth 32) = false := by
  simp [controlBit]

@[simp] theorem get31_data (sid : StreamId) : get31 (sid.setWidth 32) = sid := by
  apply BitVec.eq_of_getLsbD_eq
  intro i hi
  interval_cases i <;> simp [get31]

/-- get31 does not see the bit put31 clears (R97). -/
@[simp] theorem get31_put31 (w : Word) : get31 (put31 w) = get31 w := by
  apply BitVec.eq_of_getLsbD_eq
  intro i hi
  have : (0x7FFFFFFF#32).getLsbD i = true := by
    have : i < 31 := hi
    interval_cases i <;> rfl
  simp [get31, put31, hi]
  intro _
  simpa using this

@[simp] theorem ControlKind.ofType_discriminant (k : ControlKind) : ControlKind.ofType k.discriminant.toNat = some k := by
  cases k <;> rfl

theorem ControlKind.discriminant_of_ofType {t : BitVec 16} {k : ControlKind} (h : ControlKind.ofType t.toNat = some k) :
    t = k.discriminant := by
  unfold ControlKind.ofType at h
  split at h <;> first | (cases h; apply BitVec.eq_of_toNat_eq; simp_all [ControlKind.discriminant]) | cases h

theorem ControlKind.ofType_eq_none {t : Nat} : ControlKind.ofType t = none ↔ unknownType t = true := by
  unfold ControlKind.ofType unknownType
  split <;> simp_all
  omega

theorem decodeHeader_control (k : ControlKind) (v : BitVec 15) (f : BitVec 8) (l : BitVec 24) :
    decodeHeader (controlWord v k.discriminant) (lengthWord f l) = k.readInstr ⟨v, f, l⟩ := by
  simp only [decodeHeader, controlBit_controlWord, typeOf_controlWord, ControlKind.ofType_discriminant, versionOf_controlWord,
    flagsOf_lengthWord, lengthOf_lengthWord, if_true]
  cases k <;> rfl

theorem decodeHeader_unknown (v : BitVec 15) (t : BitVec 16) (f : BitVec 8) (l : BitVec 24)
    (h : unknownType t.toNat = true) :
    decodeHeader (controlWord v t) (lengthWord f l) = .unknownControlType (.read ⟨v, t, f, l⟩) := by
  simp only [decodeHeader, controlBit_controlWord, typeOf_controlWord, ControlKind.ofType_eq_none.mpr h, versionOf_controlWord,
    flagsOf_lengthWord, lengthOf_lengthWord, if_true]

theorem decodeHeader_data (sid : StreamId) (f : BitVec 8) (l : BitVec 24) :
    decodeHeader (sid.setWidth 32) (lengthWord f l) = .data (.read ⟨sid, f, l⟩) := by
  simp [decodeHeader]

/-- The decoder reads two words and no more. -/
theorem decode_words (w0 w1 : Word) (rest : Bytes) :
    decode (be32 w0 ++ be32 w1 ++ rest) = .ok (decodeHeader w0 w1, rest) := by
  simp [decode]

end Sys2Proof
end

