-- ==== Sys2Proof/Laws/State.lean ====
section
/-! SUPPORT. One lemma per field per update of a half, so that no later proof unfolds a record update. -/

namespace Sys2Proof.Machine

@[simp] theorem WriteHalf.finish_zc (wh : WriteHalf) (st : Status) (sid : StreamId) :
    (wh.finish st sid).zc = wh.zc := rfl
@[simp] theorem WriteHalf.finish_scratch (wh : WriteHalf) (st : Status) (sid : StreamId) :
    (wh.finish st sid).scratch = wh.scratch := rfl
@[simp] theorem WriteHalf.finish_run (wh : WriteHalf) (st : Status) (sid : StreamId) :
    (wh.finish st sid).run = wh.run := rfl
@[simp] theorem WriteHalf.finish_sinkPos (wh : WriteHalf) (st : Status) (sid : StreamId) :
    (wh.finish st sid).sinkPos = wh.sinkPos := rfl
@[simp] theorem WriteHalf.finish_request (wh : WriteHalf) (st : Status) (sid : StreamId) :
    (wh.finish st sid).request = none := rfl
@[simp] theorem WriteHalf.finish_responses (wh : WriteHalf) (st : Status) (sid : StreamId) :
    (wh.finish st sid).responses = wh.responses ++ [⟨st, sid⟩] := rfl
@[simp] theorem WriteHalf.finish_sink (wh : WriteHalf) (st : Status) (sid : StreamId) :
    (wh.finish st sid).sink = wh.sink := rfl
@[simp] theorem WriteHalf.finish_draws (wh : WriteHalf) (st : Status) (sid : StreamId) :
    (wh.finish st sid).draws = wh.draws := rfl

@[simp] theorem ReadHalf.finish_zd (rh : ReadHalf) (r : RResult) :
    (rh.finish r).zd = rh.zd := rfl
@[simp] theorem ReadHalf.finish_fence (rh : ReadHalf) (r : RResult) :
    (rh.finish r).fence = rh.fence := rfl
@[simp] theorem ReadHalf.finish_run (rh : ReadHalf) (r : RResult) :
    (rh.finish r).run = rh.run := rfl
@[simp] theorem ReadHalf.finish_srcPos (rh : ReadHalf) (r : RResult) :
    (rh.finish r).srcPos = rh.srcPos := rfl
@[simp] theorem ReadHalf.finish_request (rh : ReadHalf) (r : RResult) :
    (rh.finish r).request = false := rfl
@[simp] theorem ReadHalf.finish_responses (rh : ReadHalf) (r : RResult) :
    (rh.finish r).responses = rh.responses ++ [r] := rfl
@[simp] theorem ReadHalf.finish_source (rh : ReadHalf) (r : RResult) :
    (rh.finish r).source = rh.source := rfl
@[simp] theorem ReadHalf.finish_draws (rh : ReadHalf) (r : RResult) :
    (rh.finish r).draws = rh.draws := rfl

@[simp] theorem ReadHalf.raise_zd (rh : ReadHalf) (st : Status) (sid : StreamId) (d : List Diagnostic) :
    (rh.raise st sid d).zd = rh.zd := rfl
@[simp] theorem ReadHalf.raise_fence (rh : ReadHalf) (st : Status) (sid : StreamId) (d : List Diagnostic) :
    (rh.raise st sid d).fence = rh.fence := rfl
@[simp] theorem ReadHalf.raise_run (rh : ReadHalf) (st : Status) (sid : StreamId) (d : List Diagnostic) :
    (rh.raise st sid d).run = rh.run := rfl
@[simp] theorem ReadHalf.raise_srcPos (rh : ReadHalf) (st : Status) (sid : StreamId) (d : List Diagnostic) :
    (rh.raise st sid d).srcPos = rh.srcPos := rfl
@[simp] theorem ReadHalf.raise_request (rh : ReadHalf) (st : Status) (sid : StreamId) (d : List Diagnostic) :
    (rh.raise st sid d).request = false := rfl
@[simp] theorem ReadHalf.raise_responses (rh : ReadHalf) (st : Status) (sid : StreamId) (d : List Diagnostic) :
    (rh.raise st sid d).responses = rh.responses ++ [⟨st, sid, none, d⟩] := rfl
@[simp] theorem ReadHalf.raise_source (rh : ReadHalf) (st : Status) (sid : StreamId) (d : List Diagnostic) :
    (rh.raise st sid d).source = rh.source := rfl
@[simp] theorem ReadHalf.raise_draws (rh : ReadHalf) (st : Status) (sid : StreamId) (d : List Diagnostic) :
    (rh.raise st sid d).draws = rh.draws := rfl

@[simp] theorem ReadHalf.returnFrame_zd (rh : ReadHalf) (f : Frame) (d : List Diagnostic) :
    (rh.returnFrame f d).zd = rh.zd := rfl
@[simp] theorem ReadHalf.returnFrame_fence (rh : ReadHalf) (f : Frame) (d : List Diagnostic) :
    (rh.returnFrame f d).fence = rh.fence := rfl
@[simp] theorem ReadHalf.returnFrame_run (rh : ReadHalf) (f : Frame) (d : List Diagnostic) :
    (rh.returnFrame f d).run = rh.run := rfl
@[simp] theorem ReadHalf.returnFrame_srcPos (rh : ReadHalf) (f : Frame) (d : List Diagnostic) :
    (rh.returnFrame f d).srcPos = rh.srcPos := rfl
@[simp] theorem ReadHalf.returnFrame_request (rh : ReadHalf) (f : Frame) (d : List Diagnostic) :
    (rh.returnFrame f d).request = false := rfl
@[simp] theorem ReadHalf.returnFrame_responses (rh : ReadHalf) (f : Frame) (d : List Diagnostic) :
    (rh.returnFrame f d).responses = rh.responses ++ [⟨.ok, 0, some f, d⟩] := rfl
@[simp] theorem ReadHalf.returnFrame_source (rh : ReadHalf) (f : Frame) (d : List Diagnostic) :
    (rh.returnFrame f d).source = rh.source := rfl
@[simp] theorem ReadHalf.returnFrame_draws (rh : ReadHalf) (f : Frame) (d : List Diagnostic) :
    (rh.returnFrame f d).draws = rh.draws := rfl

@[simp] theorem WriteHalf.breakHalf_zc (wh : WriteHalf) :
    (wh.breakHalf).zc = wh.zc := rfl
@[simp] theorem WriteHalf.breakHalf_scratch (wh : WriteHalf) :
    (wh.breakHalf).scratch = Config.freeScratch wh.draws := rfl
@[simp] theorem WriteHalf.breakHalf_run (wh : WriteHalf) :
    (wh.breakHalf).run = .broken := rfl
@[simp] theorem WriteHalf.breakHalf_sinkPos (wh : WriteHalf) :
    (wh.breakHalf).sinkPos = wh.sinkPos := rfl
@[simp] theorem WriteHalf.breakHalf_request (wh : WriteHalf) :
    (wh.breakHalf).request = wh.request := rfl
@[simp] theorem WriteHalf.breakHalf_responses (wh : WriteHalf) :
    (wh.breakHalf).responses = wh.responses := rfl
@[simp] theorem WriteHalf.breakHalf_sink (wh : WriteHalf) :
    (wh.breakHalf).sink = wh.sink := rfl
@[simp] theorem WriteHalf.breakHalf_draws (wh : WriteHalf) :
    (wh.breakHalf).draws = wh.draws + 1 := rfl

@[simp] theorem ReadHalf.breakHalf_zd (rh : ReadHalf) :
    (rh.breakHalf).zd = rh.zd := rfl
@[simp] theorem ReadHalf.breakHalf_fence (rh : ReadHalf) :
    (rh.breakHalf).fence = rh.fence := rfl
@[simp] theorem ReadHalf.breakHalf_run (rh : ReadHalf) :
    (rh.breakHalf).run = .broken := rfl
@[simp] theorem ReadHalf.breakHalf_srcPos (rh : ReadHalf) :
    (rh.breakHalf).srcPos = rh.srcPos := rfl
@[simp] theorem ReadHalf.breakHalf_request (rh : ReadHalf) :
    (rh.breakHalf).request = rh.request := rfl
@[simp] theorem ReadHalf.breakHalf_responses (rh : ReadHalf) :
    (rh.breakHalf).responses = rh.responses := rfl
@[simp] theorem ReadHalf.breakHalf_source (rh : ReadHalf) :
    (rh.breakHalf).source = rh.source := rfl
@[simp] theorem ReadHalf.breakHalf_draws (rh : ReadHalf) :
    (rh.breakHalf).draws = rh.draws := rfl

@[simp] theorem ReadHalf.spoilInflater_zd (rh : ReadHalf) :
    (rh.spoilInflater).zd = some (Config.freeInflater rh.draws) := rfl
@[simp] theorem ReadHalf.spoilInflater_fence (rh : ReadHalf) :
    (rh.spoilInflater).fence = rh.fence := rfl
@[simp] theorem ReadHalf.spoilInflater_run (rh : ReadHalf) :
    (rh.spoilInflater).run = rh.run := rfl
@[simp] theorem ReadHalf.spoilInflater_srcPos (rh : ReadHalf) :
    (rh.spoilInflater).srcPos = rh.srcPos := rfl
@[simp] theorem ReadHalf.spoilInflater_request (rh : ReadHalf) :
    (rh.spoilInflater).request = rh.request := rfl
@[simp] theorem ReadHalf.spoilInflater_responses (rh : ReadHalf) :
    (rh.spoilInflater).responses = rh.responses := rfl
@[simp] theorem ReadHalf.spoilInflater_source (rh : ReadHalf) :
    (rh.spoilInflater).source = rh.source := rfl
@[simp] theorem ReadHalf.spoilInflater_draws (rh : ReadHalf) :
    (rh.spoilInflater).draws = rh.draws + 1 := rfl

@[simp] theorem ReadHalf.consumeTo_zd (rh : ReadHalf) (rest : Bytes) :
    (rh.consumeTo rest).zd = rh.zd := rfl
@[simp] theorem ReadHalf.consumeTo_fence (rh : ReadHalf) (rest : Bytes) :
    (rh.consumeTo rest).fence = rh.fence := rfl
@[simp] theorem ReadHalf.consumeTo_run (rh : ReadHalf) (rest : Bytes) :
    (rh.consumeTo rest).run = rh.run := rfl
@[simp] theorem ReadHalf.consumeTo_srcPos (rh : ReadHalf) (rest : Bytes) :
    (rh.consumeTo rest).srcPos = rh.srcPos + (rh.source.bytes.length - rest.length) := rfl
@[simp] theorem ReadHalf.consumeTo_request (rh : ReadHalf) (rest : Bytes) :
    (rh.consumeTo rest).request = rh.request := rfl
@[simp] theorem ReadHalf.consumeTo_responses (rh : ReadHalf) (rest : Bytes) :
    (rh.consumeTo rest).responses = rh.responses := rfl
@[simp] theorem ReadHalf.consumeTo_source (rh : ReadHalf) (rest : Bytes) :
    (rh.consumeTo rest).source = { rh.source with bytes := rest } := rfl
@[simp] theorem ReadHalf.consumeTo_draws (rh : ReadHalf) (rest : Bytes) :
    (rh.consumeTo rest).draws = rh.draws := rfl

@[simp] theorem WriteHalf.scratchAppend_zc (wh : WriteHalf) (bs : Bytes) :
    (wh.scratchAppend bs).zc = wh.zc := rfl
@[simp] theorem WriteHalf.scratchAppend_scratch (wh : WriteHalf) (bs : Bytes) :
    (wh.scratchAppend bs).scratch = wh.scratch ++ bs := rfl
@[simp] theorem WriteHalf.scratchAppend_run (wh : WriteHalf) (bs : Bytes) :
    (wh.scratchAppend bs).run = wh.run := rfl
@[simp] theorem WriteHalf.scratchAppend_sinkPos (wh : WriteHalf) (bs : Bytes) :
    (wh.scratchAppend bs).sinkPos = wh.sinkPos := rfl
@[simp] theorem WriteHalf.scratchAppend_request (wh : WriteHalf) (bs : Bytes) :
    (wh.scratchAppend bs).request = wh.request := rfl
@[simp] theorem WriteHalf.scratchAppend_responses (wh : WriteHalf) (bs : Bytes) :
    (wh.scratchAppend bs).responses = wh.responses := rfl
@[simp] theorem WriteHalf.scratchAppend_sink (wh : WriteHalf) (bs : Bytes) :
    (wh.scratchAppend bs).sink = wh.sink := rfl
@[simp] theorem WriteHalf.scratchAppend_draws (wh : WriteHalf) (bs : Bytes) :
    (wh.scratchAppend bs).draws = wh.draws := rfl

@[simp] theorem WriteHalf.scratchClear_zc (wh : WriteHalf) :
    (wh.scratchClear).zc = wh.zc := rfl
@[simp] theorem WriteHalf.scratchClear_scratch (wh : WriteHalf) :
    (wh.scratchClear).scratch = [] := rfl
@[simp] theorem WriteHalf.scratchClear_run (wh : WriteHalf) :
    (wh.scratchClear).run = wh.run := rfl
@[simp] theorem WriteHalf.scratchClear_sinkPos (wh : WriteHalf) :
    (wh.scratchClear).sinkPos = wh.sinkPos := rfl
@[simp] theorem WriteHalf.scratchClear_request (wh : WriteHalf) :
    (wh.scratchClear).request = wh.request := rfl
@[simp] theorem WriteHalf.scratchClear_responses (wh : WriteHalf) :
    (wh.scratchClear).responses = wh.responses := rfl
@[simp] theorem WriteHalf.scratchClear_sink (wh : WriteHalf) :
    (wh.scratchClear).sink = wh.sink := rfl
@[simp] theorem WriteHalf.scratchClear_draws (wh : WriteHalf) :
    (wh.scratchClear).draws = wh.draws := rfl

@[simp] theorem WriteHalf.accept_zc (wh : WriteHalf) (bs : Bytes) (port : SinkPort) :
    (wh.accept bs port).zc = wh.zc := rfl
@[simp] theorem WriteHalf.accept_scratch (wh : WriteHalf) (bs : Bytes) (port : SinkPort) :
    (wh.accept bs port).scratch = wh.scratch := rfl
@[simp] theorem WriteHalf.accept_run (wh : WriteHalf) (bs : Bytes) (port : SinkPort) :
    (wh.accept bs port).run = wh.run := rfl
@[simp] theorem WriteHalf.accept_sinkPos (wh : WriteHalf) (bs : Bytes) (port : SinkPort) :
    (wh.accept bs port).sinkPos = wh.sinkPos + bs.length := rfl
@[simp] theorem WriteHalf.accept_request (wh : WriteHalf) (bs : Bytes) (port : SinkPort) :
    (wh.accept bs port).request = wh.request := rfl
@[simp] theorem WriteHalf.accept_responses (wh : WriteHalf) (bs : Bytes) (port : SinkPort) :
    (wh.accept bs port).responses = wh.responses := rfl
@[simp] theorem WriteHalf.accept_sink (wh : WriteHalf) (bs : Bytes) (port : SinkPort) :
    (wh.accept bs port).sink = { accepted := wh.sink.accepted ++ bs, port := port } := rfl
@[simp] theorem WriteHalf.accept_draws (wh : WriteHalf) (bs : Bytes) (port : SinkPort) :
    (wh.accept bs port).draws = wh.draws := rfl
@[simp] theorem openFence_zd (eng : Engine) (cfg : Cfg) (L : Nat) (rh : ReadHalf) :
    (openFence eng cfg L rh).zd = some (inflater eng cfg rh) := rfl
@[simp] theorem openFence_fence (eng : Engine) (cfg : Cfg) (L : Nat) (rh : ReadHalf) :
    (openFence eng cfg L rh).fence = BitVec.ofNat 32 L := rfl
@[simp] theorem openFence_run (eng : Engine) (cfg : Cfg) (L : Nat) (rh : ReadHalf) :
    (openFence eng cfg L rh).run = rh.run := rfl
@[simp] theorem openFence_srcPos (eng : Engine) (cfg : Cfg) (L : Nat) (rh : ReadHalf) :
    (openFence eng cfg L rh).srcPos = rh.srcPos := rfl
@[simp] theorem openFence_request (eng : Engine) (cfg : Cfg) (L : Nat) (rh : ReadHalf) :
    (openFence eng cfg L rh).request = rh.request := rfl
@[simp] theorem openFence_responses (eng : Engine) (cfg : Cfg) (L : Nat) (rh : ReadHalf) :
    (openFence eng cfg L rh).responses = rh.responses := rfl
@[simp] theorem openFence_source (eng : Engine) (cfg : Cfg) (L : Nat) (rh : ReadHalf) :
    (openFence eng cfg L rh).source = rh.source := rfl
@[simp] theorem openFence_draws (eng : Engine) (cfg : Cfg) (L : Nat) (rh : ReadHalf) :
    (openFence eng cfg L rh).draws = rh.draws := rfl

end Sys2Proof.Machine
end

