-- ==== Sys2Proof/Laws/Ops.lean ====
section
/-! SUPPORT. What each shared operation can do, said once: the provers cite these and do not unfold the operation. -/

namespace Sys2Proof.Machine

/-! ## The source -/

/-- What SrcRead can answer (R53). -/
theorem srcRead_cases {α : Type} (p : Bytes → Option (α × Bytes)) (rh : ReadHalf) :
    (∃ a rest, p rh.source.bytes = some (a, rest) ∧ srcRead p rh = .got a (rh.consumeTo rest)) ∨
    (p rh.source.bytes = none ∧
      ((rh.source.ending = .eof ∧ srcRead p rh = .eof rh.source.bytes.length (rh.consumeTo [])) ∨
       (∃ e, rh.source.ending = .error e ∧ srcRead p rh = .ioerr e rh.source.bytes.length (rh.consumeTo [])) ∨
       (rh.source.ending = .silent ∧ srcRead p rh = .waits))) := by
  unfold srcRead
  cases hp : p rh.source.bytes with
  | some ar => exact .inl ⟨ar.1, ar.2, rfl, rfl⟩
  | none => cases he : rh.source.ending <;> simp

theorem srcRead_some {α : Type} {p : Bytes → Option (α × Bytes)} {rh : ReadHalf} {a : α} {rest : Bytes}
    (h : p rh.source.bytes = some (a, rest)) : srcRead p rh = .got a (rh.consumeTo rest) := by
  simp [srcRead, h]

/-- READ whose bytes are there goes on with them. -/
theorem read_some {α : Type} {p : Bytes → Option (α × Bytes)} {rh : ReadHalf} {a : α} {rest : Bytes}
    (k : α → ReadHalf → Option ReadHalf) (h : p rh.source.bytes = some (a, rest)) :
    read p rh k = k a (rh.consumeTo rest) := by
  simp [read, srcRead_some h]

/-- READ that runs short of bytes in a source that ends breaks the half (R135). -/
theorem read_eof {α : Type} {p : Bytes → Option (α × Bytes)} {rh : ReadHalf} (k : α → ReadHalf → Option ReadHalf)
    (h : p rh.source.bytes = none) (he : rh.source.ending = .eof) :
    read p rh k = some ((rh.consumeTo []).breakHalf.raise (.ioError .unexpectedEof) 0 []) := by
  simp [read, srcRead, h, he]

theorem read_error {α : Type} {p : Bytes → Option (α × Bytes)} {rh : ReadHalf} (k : α → ReadHalf → Option ReadHalf)
    {e : Nat} (h : p rh.source.bytes = none) (he : rh.source.ending = .error e) :
    read p rh k = some ((rh.consumeTo []).breakHalf.raise (.ioError (.transport e)) 0 []) := by
  simp [read, srcRead, h, he]

/-- What READ can answer: it goes on, or the half breaks with an IoError (R135). -/
theorem read_cases {α : Type} {p : Bytes → Option (α × Bytes)} {rh rh' : ReadHalf}
    {k : α → ReadHalf → Option ReadHalf} (h : read p rh k = some rh') :
    (∃ a rest, p rh.source.bytes = some (a, rest) ∧ k a (rh.consumeTo rest) = some rh') ∨
    (p rh.source.bytes = none ∧ ∃ e, rh' = (rh.consumeTo []).breakHalf.raise (.ioError e) 0 []) := by
  unfold read at h
  obtain ⟨a, rest, hp, hs⟩ | ⟨hn, ⟨_, hs⟩ | ⟨e, _, hs⟩ | ⟨_, hs⟩⟩ := srcRead_cases p rh <;> rw [hs] at h
  · exact .inl ⟨a, rest, hp, h⟩
  · exact .inr ⟨hn, _, (Option.some.inj h).symm⟩
  · exact .inr ⟨hn, _, (Option.some.inj h).symm⟩
  · cases h

/-- Consuming in two goes is consuming in one. -/
theorem consumeTo_consumeTo (rh : ReadHalf) (r r' : Bytes) (h : r.length ≤ rh.source.bytes.length)
    (h' : r'.length ≤ r.length) : (rh.consumeTo r).consumeTo r' = rh.consumeTo r' := by
  simp only [ReadHalf.consumeTo]
  congr 1
  omega

/-- READ_FRAME of a source whose next two words are there goes on eight bytes later (R130). -/
theorem readHeader_words (rh : ReadHalf) (k : ReadHalf → Option ReadHalf) {w0 w1 : Word} {rest : Bytes}
    (h : rh.source.bytes = be32 w0 ++ be32 w1 ++ rest) : readHeader rh k = k (rh.consumeTo rest) := by
  have h0 : get32 rh.source.bytes = some (w0, be32 w1 ++ rest) := by rw [h]; simp
  have h1 : get32 (rh.consumeTo (be32 w1 ++ rest)).source.bytes = some (w1, rest) := by simp
  rw [readHeader, srcRead_some h0]
  dsimp only
  rw [read_some _ h1, consumeTo_consumeTo _ _ _ (by rw [h]; simp) (by simp)]

/-- Eight bytes are two words. -/
theorem eight_bytes_two_words {hdr : Bytes} (h : hdr.length = 8) : ∃ w0 w1, hdr = be32 w0 ++ be32 w1 := by
  match hdr, h with
  | [a, b, c, d, e, f, g, i], _ =>
    exact ⟨unbe32 a b c d, unbe32 e f g i, by rw [be32_unbe32, be32_unbe32]; rfl⟩

/-- READ_FRAME of a source that begins with eight bytes goes on after them (R130). -/
theorem readHeader_eight (rh : ReadHalf) (k : ReadHalf → Option ReadHalf) {hdr rest : Bytes} (h8 : hdr.length = 8)
    (h : rh.source.bytes = hdr ++ rest) : readHeader rh k = k (rh.consumeTo rest) := by
  obtain ⟨w0, w1, rfl⟩ := eight_bytes_two_words h8
  exact readHeader_words rh k h

/-- What the header read can answer: it goes on eight bytes later, the clean end of the source before the first byte, or an
IoError (R130). -/
theorem readHeader_cases {rh rh' : ReadHalf} {k : ReadHalf → Option ReadHalf} (h : readHeader rh k = some rh') :
    (∃ w0 w1 rest, rh.source.bytes = be32 w0 ++ be32 w1 ++ rest ∧ k (rh.consumeTo rest) = some rh') ∨
    (rh.source.bytes = [] ∧ rh.source.ending = .eof ∧ rh' = (rh.consumeTo []).raise .endOfStream 0 []) ∨
    (rh.source.bytes.length < 8 ∧ ∃ e, rh' = (rh.consumeTo []).breakHalf.raise (.ioError e) 0 []) := by
  have hfull := h
  unfold readHeader at h
  obtain ⟨w0, r, hp, hs⟩ | ⟨hn, ⟨he, hs⟩ | ⟨e, _, hs⟩ | ⟨_, hs⟩⟩ := srcRead_cases get32 rh <;> rw [hs] at h
  · have hb := eq_be32_of_get32 hp
    have hr : (rh.consumeTo r).source.bytes = r := rfl
    obtain ⟨w1, rest, h1, _⟩ | ⟨hn, e, he⟩ := read_cases h
    · have hb1 := eq_be32_of_get32 h1
      rw [hr] at hb1
      subst hb1
      have hb2 : rh.source.bytes = be32 w0 ++ be32 w1 ++ rest := by rw [hb]; simp
      exact .inl ⟨w0, w1, rest, hb2, by rw [← readHeader_words rh k hb2]; exact hfull⟩
    · refine .inr (.inr ⟨?_, e, ?_⟩)
      · have h4 := get32_eq_none.mp hn
        have := congrArg List.length hb
        simp at this h4
        omega
      · rw [he, consumeTo_consumeTo _ _ _ (by rw [hb]; simp) (by simp)]
  · have := get32_eq_none.mp hn
    cases hb : rh.source.bytes with
    | nil => rw [hb] at h; exact .inr (.inl ⟨rfl, he, (Option.some.inj h).symm⟩)
    | cons b bs =>
      rw [hb] at h
      refine .inr (.inr ⟨?_, _, (Option.some.inj h).symm⟩)
      rw [hb] at this
      omega
  · exact .inr (.inr ⟨by have := get32_eq_none.mp hn; omega, _, (Option.some.inj h).symm⟩)
  · cases h

/-! ## The sink -/

/-- What SinkWrite can answer: all of the bytes, or a proper part and the port's error (R54). -/
theorem sinkWrite_cases (bs : Bytes) (wh : WriteHalf) :
    (wh.sink.port.hasRoom bs.length = true ∧
      sinkWrite bs wh = .written (wh.accept bs (wh.sink.port.after bs.length))) ∨
    (∃ room e, wh.sink.port = .failsAfter room e ∧ room < bs.length ∧
      sinkWrite bs wh = .ioerr e (wh.accept (bs.take room) (.failsAfter 0 e))) ∨
    (∃ room, wh.sink.port = .silentAfter room ∧ room < bs.length ∧ sinkWrite bs wh = .waits) := by
  unfold sinkWrite
  cases hp : wh.sink.port with
  | accepts => simp [SinkPort.hasRoom, SinkPort.after]
  | failsAfter room e =>
    by_cases h : bs.length ≤ room
    · simp [SinkPort.hasRoom, SinkPort.after, h]
    · simp [h, SinkPort.hasRoom]; omega
  | silentAfter room =>
    by_cases h : bs.length ≤ room
    · simp [SinkPort.hasRoom, SinkPort.after, h]
    · simp [h, SinkPort.hasRoom]; omega

theorem emit_room {bs : Bytes} {wh : WriteHalf} (after : WriteHalf → WriteHalf)
    (h : wh.sink.port.hasRoom bs.length = true) :
    emit bs wh after = some ((after (wh.accept bs (wh.sink.port.after bs.length))).finish .ok 0) := by
  obtain ⟨_, hs⟩ | ⟨room, e, hp, hl, _⟩ | ⟨room, hp, hl, _⟩ := sinkWrite_cases bs wh
  · simp [emit, hs]
  · rw [hp] at h; simp [SinkPort.hasRoom] at h; omega
  · rw [hp] at h; simp [SinkPort.hasRoom] at h; omega

/-- What emission can answer: the whole frame and OK, or a proper part of it, an IoError and a BROKEN half (R123, R125). -/
theorem emit_cases {bs : Bytes} {wh wh' : WriteHalf} {after : WriteHalf → WriteHalf} (h : emit bs wh after = some wh') :
    (wh' = (after (wh.accept bs (wh.sink.port.after bs.length))).finish .ok 0) ∨
    (∃ room e, wh.sink.port = .failsAfter room e ∧ room < bs.length ∧
      wh' = (wh.accept (bs.take room) (.failsAfter 0 e)).breakHalf.finish (.ioError (.transport e)) 0) := by
  unfold emit at h
  obtain ⟨_, hs⟩ | ⟨room, e, hp, hl, hs⟩ | ⟨room, hp, hl, hs⟩ := sinkWrite_cases bs wh <;> rw [hs] at h
  · exact .inl (Option.some.inj h).symm
  · exact .inr ⟨room, e, hp, hl, (Option.some.inj h).symm⟩
  · cases h

theorem emitCtrl_room {k : ControlKind} {flags : BitVec 8} {payload : Bytes} {sid : StreamId} {wh : WriteHalf}
    (after : WriteHalf → WriteHalf) (hl : payload.length ≤ maxLength)
    (h : wh.sink.port.hasRoom (controlFrame k flags payload).length = true) :
    emitCtrl k flags payload sid wh after =
      some ((after (wh.accept (controlFrame k flags payload)
        (wh.sink.port.after (controlFrame k flags payload).length))).finish .ok 0) := by
  rw [emitCtrl, if_neg (by omega), emit_room after h]

/-- What EMIT_CTRL can answer (R123, R124). -/
theorem emitCtrl_cases {k : ControlKind} {flags : BitVec 8} {payload : Bytes} {sid : StreamId} {wh wh' : WriteHalf}
    {after : WriteHalf → WriteHalf} (h : emitCtrl k flags payload sid wh after = some wh') :
    (payload.length > maxLength ∧ wh' = wh.finish .invalidControlFrame sid) ∨
    (payload.length ≤ maxLength ∧
      wh' = (after (wh.accept (controlFrame k flags payload)
        (wh.sink.port.after (controlFrame k flags payload).length))).finish .ok 0) ∨
    (payload.length ≤ maxLength ∧ ∃ room e, wh.sink.port = .failsAfter room e ∧
      room < (controlFrame k flags payload).length ∧
      wh' = (wh.accept ((controlFrame k flags payload).take room) (.failsAfter 0 e)).breakHalf.finish
        (.ioError (.transport e)) 0) := by
  unfold emitCtrl at h
  split at h
  case isTrue hl => exact .inl ⟨hl, (Option.some.inj h).symm⟩
  case isFalse hl =>
    obtain h | ⟨room, e, hp, hr, h⟩ := emit_cases h
    · exact .inr (.inl ⟨by omega, h⟩)
    · exact .inr (.inr ⟨by omega, room, e, hp, hr, h⟩)

@[simp] theorem length_controlFrame (k : ControlKind) (flags : BitVec 8) (payload : Bytes) :
    (controlFrame k flags payload).length = 8 + payload.length := by
  simp [controlFrame, controlHeaderBytes]; omega

@[simp] theorem length_dataFrame (f : DataCmd) : (dataFrame f).length = 8 + f.data.length := by
  simp [dataFrame, dataHeaderBytes]; omega

/-! ## The two top-level operations -/

/-- A live, READY write half runs the rule of a well-formed command (R120). -/
theorem writeFrame_runs {s : State} (rule : WriteHalf → Option WriteHalf) (h : s.canWrite) :
    writeFrame true rule s = match rule s.wh with
      | some wh => .next { s with wh := wh }
      | none => .next s := by
  cases hr : rule s.wh <;> simp [writeFrame, h.1, h.2, hr]

/-- A live, READY read half runs the header read and then the rule (R130). -/
theorem readFrame_runs {s : State} (rule : ReadHalf → Option ReadHalf) (h : s.canRead) :
    readFrame rule s = match readHeader s.rh rule with
      | some rh => .next { s with rh := rh }
      | none => .next s := by
  cases hr : readHeader s.rh rule <;> simp [readFrame, h.1, h.2, hr]

/-- What a WRITE_FRAME that answers a next state has done: it ran its rule, or it waits and changed nothing. -/
theorem writeFrame_next {wf : Bool} {rule : WriteHalf → Option WriteHalf} {s t : State}
    (h : writeFrame wf rule s = .next t) :
    s.canWrite ∧ wf = true ∧ ((∃ wh, rule s.wh = some wh ∧ t = { s with wh := wh }) ∨ (rule s.wh = none ∧ t = s)) := by
  unfold writeFrame at h
  split at h
  · cases h
  · cases h
  · split at h
    · cases h
    · split at h
      · split at h
        · cases h; exact ⟨⟨‹_›, ‹_›⟩, ‹_›, .inl ⟨_, ‹_›, rfl⟩⟩
        · cases h; exact ⟨⟨‹_›, ‹_›⟩, ‹_›, .inr ⟨‹_›, rfl⟩⟩
      · cases h

/-- What a READ_FRAME that answers a next state has done: it ran its header read and rule, or it waits and changed nothing. -/
theorem readFrame_next {rule : ReadHalf → Option ReadHalf} {s t : State} (h : readFrame rule s = .next t) :
    s.canRead ∧
      ((∃ rh, readHeader s.rh rule = some rh ∧ t = { s with rh := rh }) ∨ (readHeader s.rh rule = none ∧ t = s)) := by
  unfold readFrame at h
  split at h
  · cases h
  · cases h
  · split at h
    · cases h
    · split at h
      · cases h; exact ⟨⟨‹_›, ‹_›⟩, .inl ⟨_, ‹_›, rfl⟩⟩
      · cases h; exact ⟨⟨‹_›, ‹_›⟩, .inr ⟨‹_›, rfl⟩⟩

end Sys2Proof.Machine
end

