-- ==== Sys2Proof/Laws/Operands.lean ====
section
/-! SUPPORT. The operand fields of commands and the readers of the decoder: each reader's answer on the bytes its field is
written as, and that what it leaves is the end of what it was given. -/

namespace Sys2Proof.Machine

/-! ## Fields of a command -/

theorem maskedId_eq_zero (n : Nat) : maskedId n = 0 ↔ n % 2 ^ 31 = 0 := by
  unfold maskedId get31 word
  rw [← BitVec.toNat_inj]
  simp

theorem maskedId_eq (n : Nat) : maskedId n = BitVec.ofNat 31 n := by
  unfold maskedId get31 word
  apply BitVec.eq_of_toNat_eq
  simp

theorem put31_word (n : Nat) : put31 (word n) = BitVec.ofNat 32 (n % 2 ^ 31) := by
  apply BitVec.eq_of_toNat_eq
  simp only [put31, word, BitVec.toNat_and, BitVec.toNat_ofNat, show 2147483647 % 2 ^ 32 = 2 ^ 31 - 1 from rfl,
    Nat.and_two_pow_sub_one_eq_mod]
  omega

theorem word_eq_zero {n : Nat} (h : n < 2 ^ 32) : word n = 0 ↔ n = 0 := by
  unfold word
  rw [← BitVec.toNat_inj]
  simp
  omega

theorem controlBit_word {n : Nat} (h : n < 2 ^ 32) : controlBit (word n) = true ↔ 2 ^ 31 ≤ n := by
  rw [controlBit, word, show (31 : Nat) = 32 - 1 from rfl, ← BitVec.msb_eq_getLsbD_last, BitVec.msb_eq_decide]
  simp
  omega

theorem toNat_word {n : Nat} (h : n < 2 ^ 32) : (word n).toNat = n := by
  simp [word]
  omega

/-- The second header word is the flags' byte and the three of the length (R82, R84). -/
theorem be32_lengthWord (f : BitVec 8) (l : BitVec 24) : be32 (lengthWord f l) = f :: be24 l := by
  simp only [be32, lengthWord, be24, List.cons.injEq, and_true]
  refine ⟨?_, ?_, ?_, ?_⟩ <;>
    · apply BitVec.eq_of_getLsbD_eq
      intro i hi
      interval_cases i <;> simp

/-- The bytes of an emitted control frame (R81, R82, R122). -/
theorem controlFrame_bytes (k : ControlKind) (f : BitVec 8) (p : Bytes) :
    controlFrame k f p =
      [0x80#8, 0x03#8, 0x00#8, k.discriminant.setWidth 8] ++ [fillFlags k f] ++ be24 (BitVec.ofNat 24 p.length) ++ p := by
  have : be32 (controlWord Config.version k.discriminant) = [0x80#8, 0x03#8, 0x00#8, k.discriminant.setWidth 8] := by
    cases k <;> decide
  simp [controlFrame, controlHeaderBytes, be32_lengthWord, this]

/-! ## Readers -/

theorem get32_suffix {bs rest : Bytes} {w : Word} (h : get32 bs = some (w, rest)) : rest <:+ bs :=
  ⟨_, (eq_be32_of_get32 h).symm⟩

theorem get8_suffix {bs rest : Bytes} {b : Byte} (h : get8 bs = some (b, rest)) : rest <:+ bs := by
  unfold get8 at h
  split at h
  · cases h; exact ⟨[_], rfl⟩
  · cases h

theorem getBytes_suffix {n : Nat} {bs a rest : Bytes} (h : getBytes n bs = some (a, rest)) : rest <:+ bs :=
  ⟨_, (getBytes_eq_some h).1.symm⟩

@[simp] theorem get31Word_be32_append (w : Word) (rest : Bytes) : get31Word (be32 w ++ rest) = some (get31 w, rest) := by
  simp [get31Word]

theorem get31Word_eq_none {bs : Bytes} : get31Word bs = none ↔ bs.length < 4 := by
  rw [← get32_eq_none]
  unfold get31Word
  split <;> simp_all

theorem get31Word_suffix {bs rest : Bytes} {v : StreamId} (h : get31Word bs = some (v, rest)) : rest <:+ bs := by
  unfold get31Word at h
  split at h
  · cases h; exact get32_suffix ‹_›
  · cases h

theorem getSettingsEntry_suffix {bs rest : Bytes} {e : SettingsEntry} (h : getSettingsEntry bs = some (e, rest)) :
    rest <:+ bs := by
  unfold getSettingsEntry at h
  split at h
  · cases h
  · split at h
    · cases h
    · cases h; exact (get32_suffix ‹_›).trans (get32_suffix ‹_›)

theorem getSettingsEntries_suffix {n : Nat} {bs rest : Bytes} {es : List SettingsEntry}
    (h : getSettingsEntries n bs = some (es, rest)) : rest <:+ bs := by
  induction n generalizing bs es with
  | zero => cases h; exact List.suffix_refl _
  | succ n ih =>
    unfold getSettingsEntries at h
    split at h
    · cases h
    · rename_i h1
      split at h
      · cases h
      · rename_i h2
        cases h
        exact (ih h2).trans (getSettingsEntry_suffix h1)

theorem getCounted_suffix {bs a rest : Bytes} (h : getCounted bs = some (a, rest)) : rest <:+ bs := by
  unfold getCounted at h
  split at h
  · cases h
  · exact (getBytes_suffix h).trans (get32_suffix ‹_›)

theorem getWireEntry_suffix {bs rest : Bytes} {e : Bytes × Bytes} (h : getWireEntry bs = some (e, rest)) :
    rest <:+ bs := by
  unfold getWireEntry at h
  split at h
  · cases h
  · rename_i h1
    split at h
    · cases h
    · rename_i h2
      cases h
      exact (getCounted_suffix h2).trans (getCounted_suffix h1)

theorem getWireEntries_suffix {n : Nat} {bs rest : Bytes} {es : List (Bytes × Bytes)}
    (h : getWireEntries n bs = some (es, rest)) : rest <:+ bs := by
  induction n generalizing bs es with
  | zero => cases h; exact List.suffix_refl _
  | succ n ih =>
    unfold getWireEntries at h
    split at h
    · cases h
    · rename_i h1
      split at h
      · cases h
      · rename_i h2
        cases h
        exact (ih h2).trans (getWireEntry_suffix h1)

theorem hbParse_suffix {sid : StreamId} {bs rest : Bytes} {acc : BlockAcc} (h : hbParse sid bs = some (acc, rest)) :
    rest <:+ bs := by
  unfold hbParse at h
  split at h
  · cases h
  · rename_i h1
    split at h
    · cases h
    · rename_i h2
      cases h
      exact (getWireEntries_suffix h2).trans (get32_suffix h1)

/-- A length-prefixed string is read back (R98). -/
theorem getCounted_lengthPrefixed (bs rest : Bytes) (h : bs.length < 2 ^ 32) :
    getCounted (lengthPrefixed bs ++ rest) = some (bs, rest) := by
  simp only [getCounted, lengthPrefixed, List.append_assoc, get32_be32_append, toNat_word h]
  exact getBytes_append rfl

/-- A wire entry is read back, and what follows it is left (R98, R154). -/
theorem getWireEntry_wireEntry (e : Bytes × Bytes) (rest : Bytes) (h : e.1.length < 2 ^ 32 ∧ e.2.length < 2 ^ 32) :
    getWireEntry (wireEntry e ++ rest) = some (e, rest) := by
  have hc : wireEntry e ++ rest = lengthPrefixed e.1 ++ (lengthPrefixed e.2 ++ rest) := by
    simp [wireEntry, lengthPrefixed, word]
  simp only [hc, getWireEntry, getCounted_lengthPrefixed _ _ h.1, getCounted_lengthPrefixed _ _ h.2]

/-- As many wire entries as stand there are read back, in order. -/
theorem getWireEntries_flatMap (es : List (Bytes × Bytes)) (rest : Bytes)
    (h : ∀ e ∈ es, e.1.length < 2 ^ 32 ∧ e.2.length < 2 ^ 32) :
    getWireEntries es.length (es.flatMap wireEntry ++ rest) = some (es, rest) := by
  induction es with
  | nil => rfl
  | cons e es ih =>
    simp only [List.length_cons, List.flatMap_cons, List.append_assoc, getWireEntries,
      getWireEntry_wireEntry e _ (h e List.mem_cons_self), ih fun x hx => h x (List.mem_cons_of_mem _ hx)]

/-- The joined values are as long as R102 counts them. -/
theorem length_joinNul (vs : List Bytes) : (joinNul vs).length = joinedLength vs := by
  induction vs with
  | nil => rfl
  | cons v vs ih =>
    cases vs with
    | nil => simp [joinNul, joinedLength]
    | cons v' vs => simp [joinNul, joinedLength] at *; omega

@[simp] theorem length_lower (bs : Bytes) : (lower bs).length = bs.length := by simp [lower]

theorem hasName_iff (n : Bytes) (m : HeaderMap) : hasName n m = true ↔ n ∈ m.map HeaderEntry.name := by
  simp only [hasName, List.any_eq_true, beq_iff_eq, List.mem_map]

/-- Appending values to a name of the map changes no name. -/
@[simp] theorem names_appendValues (n : Bytes) (vs : List Bytes) (m : HeaderMap) :
    (appendValues n vs m).map HeaderEntry.name = m.map HeaderEntry.name := by
  simp only [appendValues, List.map_map]
  apply List.map_congr_left
  intro e _
  simp only [Function.comp]
  split <;> rfl

/-! ## Moving through the source -/

/-- What consuming up to `rest` is, when `rest` is what follows `pre`. -/
theorem consumeTo_append {rh : ReadHalf} {pre rest : Bytes} (h : rh.source.bytes = pre ++ rest) :
    rh.consumeTo rest =
      { rh with
        srcPos := rh.srcPos + pre.length
        source := { rh.source with bytes := rh.source.bytes.drop pre.length } } := by
  simp [ReadHalf.consumeTo, h]

/-! ## Emission as an outcome -/

/-- One emission of `bs` by a half `wh'` that differs from the state's own as `s'` does. -/
theorem emits_of_emit {s s' : State} {wh' : WriteHalf} {after : WriteHalf → WriteHalf} {bs : Bytes}
    (hp : wh'.sink.port = s.wh.sink.port)
    (hw : { s with wh := (after (wh'.accept bs (s.wh.sink.port.after bs.length))).finish .ok 0 } = s'.wrote bs)
    (hf : ∀ part e,
      { s with wh := (wh'.accept part (.failsAfter 0 e)).breakHalf.finish (.ioError (.transport e)) 0 } =
        s'.writeFailed part e) :
    s.emits s' bs (match emit bs wh' after with | some wh => .next { s with wh := wh } | none => .next s) := by
  refine ⟨fun hr => ?_, fun room e hp' hl => ?_⟩
  · rw [emit_room after (by rw [hp]; exact hr), hp]
    exact congrArg _ hw
  · simp only [emit, sinkWrite, hp, hp']
    rw [if_neg (by omega)]
    exact congrArg _ (hf _ _)

end Sys2Proof.Machine
end

