-- ==== Sys2Proof/Laws/HeaderBlock.lean ====
section
/-! SUPPORT. What the compressor dispatcher can do, in each mode, said once. -/

namespace Sys2Proof.Machine

theorem hbEncode_raw {eng : Engine} {cfg : Cfg} {hl : HeaderList} {wh : WriteHalf} (h : cfg.nocomp = true) :
    hbEncode eng cfg hl wh = wh.scratchAppend (hbSerialize hl) := by
  simp [hbEncode, h]

theorem hbEncode_compressed {eng : Engine} {cfg : Cfg} {hl : HeaderList} {wh : WriteHalf} {cs : CState}
    (h : cfg.nocomp = false) (hc : wh.zc = some cs) :
    hbEncode eng cfg hl wh =
      { wh with zc := some (eng.deflateBlock cs (hbSerialize hl)).1 }.scratchAppend
        (eng.deflateBlock cs (hbSerialize hl)).2 := by
  simp [hbEncode, h, compressor, hc]

/-- What a header-bearing encode can answer: the over-long frame, which breaks the half in compressed mode only, or what EMIT_CTRL
answers for the fixed fields and the scratch buffer (R200). -/
theorem hbWrite_cases {eng : Engine} {cfg : Cfg} {k : ControlKind} {fixed : Bytes} {hl : HeaderList} {sid : StreamId}
    {flags : BitVec 8} {wh wh' : WriteHalf} (h : hbWrite eng cfg k fixed hl sid flags wh = some wh') :
    ((fixed ++ (hbEncode eng cfg hl wh).scratch).length > maxLength ∧
      ((cfg.nocomp = true ∧ wh' = (hbEncode eng cfg hl wh).scratchClear.finish .invalidControlFrame sid) ∨
        (cfg.nocomp = false ∧ wh' = (hbEncode eng cfg hl wh).breakHalf.finish .invalidControlFrame sid))) ∨
    ((fixed ++ (hbEncode eng cfg hl wh).scratch).length ≤ maxLength ∧
      emitCtrl k flags (fixed ++ (hbEncode eng cfg hl wh).scratch) sid (hbEncode eng cfg hl wh) WriteHalf.scratchClear =
        some wh') := by
  unfold hbWrite at h
  dsimp only at h
  split at h
  case isTrue hl =>
    refine .inl ⟨hl, ?_⟩
    cases hn : cfg.nocomp
    · exact .inr ⟨rfl, by simpa [hn] using h.symm⟩
    · exact .inl ⟨rfl, by simpa [hn] using h.symm⟩
  case isFalse hl => exact .inr ⟨by omega, h⟩

/-- The checks after a block end the operation with one result and change nothing else (R162, R324). -/
theorem finishHeaders_eq (set : BannedSet) (sid : StreamId) (frame : HeaderMap → Frame) (acc : BlockAcc) (rh : ReadHalf) :
    finishHeaders set sid frame acc rh = rh.finish (headerResult set sid frame acc) := by
  unfold finishHeaders headerResult hasBanned
  split
  · rfl
  · split <;> rfl

/-- What the fenced decode can answer (R177): the fence lacks bytes in a source that ends, the engine's error, a block that is
not exactly the fence's, or the block. -/
theorem hbDecodeZ_cases {eng : Engine} {cfg : Cfg} {L : Nat} {sid : StreamId} {rh rh' : ReadHalf}
    {done : BlockAcc → ReadHalf → ReadHalf} (h : hbDecodeZ eng cfg L sid rh done = some rh') :
    (rh.source.bytes.length < L ∧ ∃ status,
      (status = .wrongCompressedPayloadSize ∨ ∃ e, status = .ioError (.transport e)) ∧
      rh' =
        { (openFence eng cfg L rh).consumeTo [] with
          fence := BitVec.ofNat 32 (L - rh.source.bytes.length) }.spoilInflater.breakHalf.raise status 0 []) ∨
    (L ≤ rh.source.bytes.length ∧
      let c := rh.source.bytes.take L
      let rh1 := (openFence eng cfg L rh).consumeTo (rh.source.bytes.drop L)
      ((∃ z, eng.inflateFeed (inflater eng cfg rh) c = .zerr z ∧
          rh' = { rh1 with fence := 0 }.spoilInflater.breakHalf.raise (.zlibError z) 0 []) ∨
        ∃ ds out boundary, eng.inflateFeed (inflater eng cfg rh) c = .fed ds out boundary ∧
          (rh' = { rh1 with fence := 0 }.spoilInflater.breakHalf.raise .wrongCompressedPayloadSize 0 [] ∨
            ∃ acc, hbParse sid out = some (acc, []) ∧ boundary = true ∧
              rh' = done acc { rh1 with fence := 0, zd := some ds }))) := by
  have hb : (openFence eng cfg L rh).source.bytes = rh.source.bytes := rfl
  unfold hbDecodeZ at h
  obtain ⟨c, r, hp, hs⟩ | ⟨hn, ⟨_, hs⟩ | ⟨e, _, hs⟩ | ⟨_, hs⟩⟩ := srcRead_cases (getBytes L) (openFence eng cfg L rh) <;>
    rw [hs] at h
  · rw [hb] at hp
    obtain ⟨h1, h2⟩ := getBytes_eq_some hp
    have hc : rh.source.bytes.take L = c := by rw [h1, ← h2, List.take_left]
    have hr : rh.source.bytes.drop L = r := by rw [h1, ← h2, List.drop_left]
    refine .inr ⟨by rw [h1]; simp; omega, ?_⟩
    simp only [hc, hr]
    dsimp only at h
    split at h
    · exact .inl ⟨_, ‹_›, (Option.some.inj h).symm⟩
    · refine .inr ⟨_, _, _, ‹_›, ?_⟩
      split at h
      · exact .inl (Option.some.inj h).symm
      · split at h
        · rename_i hq
          obtain ⟨rfl, hq⟩ := hq
          exact .inr ⟨_, ‹_›, hq, (Option.some.inj h).symm⟩
        · exact .inl (Option.some.inj h).symm
  · exact .inl ⟨getBytes_eq_none.mp hn, _, .inl rfl, (Option.some.inj h).symm⟩
  · exact .inl ⟨getBytes_eq_none.mp hn, _, .inr ⟨e, rfl⟩, (Option.some.inj h).symm⟩
  · cases h

end Sys2Proof.Machine
end

