-- ==== Sys2Proof/Laws/PerInstr.lean ====
section
/-! SUPPORT. HeaderSize: the encoder gives every header form exactly eight bytes, the size of the common header (R80). -/

namespace Sys2Proof.Laws.HeaderSize

/-- A header form is encoded in eight bytes. -/
def Statement (i : Instr) : Prop := i.isRead = true → (encode i).length = 8

theorem synStream (form : Form SynStreamCmd ReadHeader) : Statement (.synStream form) := by
  cases form <;> simp [Statement, Instr.isRead, encode, ReadHeader.bytes, controlHeaderBytes]

theorem synReply (form : Form SynReplyCmd ReadHeader) : Statement (.synReply form) := by
  cases form <;> simp [Statement, Instr.isRead, encode, ReadHeader.bytes, controlHeaderBytes]

theorem rstStream (form : Form RstStreamCmd ReadHeader) : Statement (.rstStream form) := by
  cases form <;> simp [Statement, Instr.isRead, encode, ReadHeader.bytes, controlHeaderBytes]

theorem settings (form : Form SettingsCmd ReadHeader) : Statement (.settings form) := by
  cases form <;> simp [Statement, Instr.isRead, encode, ReadHeader.bytes, controlHeaderBytes]

theorem ping (form : Form PingCmd ReadHeader) : Statement (.ping form) := by
  cases form <;> simp [Statement, Instr.isRead, encode, ReadHeader.bytes, controlHeaderBytes]

theorem goAway (form : Form GoAwayCmd ReadHeader) : Statement (.goAway form) := by
  cases form <;> simp [Statement, Instr.isRead, encode, ReadHeader.bytes, controlHeaderBytes]

theorem headers (form : Form HeadersCmd ReadHeader) : Statement (.headers form) := by
  cases form <;> simp [Statement, Instr.isRead, encode, ReadHeader.bytes, controlHeaderBytes]

theorem windowUpdate (form : Form WindowUpdateCmd ReadHeader) : Statement (.windowUpdate form) := by
  cases form <;> simp [Statement, Instr.isRead, encode, ReadHeader.bytes, controlHeaderBytes]

theorem data (form : Form DataCmd DataHeader) : Statement (.data form) := by
  cases form <;> simp [Statement, Instr.isRead, encode, dataHeaderBytes]

theorem unknownControlType (form : Form UnknownCmd UnknownHeader) : Statement (.unknownControlType form) := by
  cases form <;> simp [Statement, Instr.isRead, encode, controlHeaderBytes]

end Sys2Proof.Laws.HeaderSize
end

