-- ==== Sys2Proof/Tests/Slice0.lean ====
section
/-! SUPPORT. Tests: what WellFormed refuses, words written out from the spec's encodings, one step on the spec's vectors
(95_test_vectors.md), and a witness for every statement with hypotheses. -/

namespace Sys2Proof.Tests

open Sys2Proof Sys2Proof.Machine

/-! ## States -/

/-- A raw-mode block right after reset, with a sink port, source bytes and what follows them. -/
def raw (port : SinkPort) (bytes : Bytes) (ending : SourceEnd) : State :=
  { State.reset with
    cfg := Cfg.atReset true
    wh := { State.reset.wh with zc := none, sink := { accepted := [], port := port } }
    rh := { State.reset.rh with source := { bytes := bytes, ending := ending } } }

/-- A compressed-mode block right after reset, with source bytes and what follows them. -/
def compressed (bytes : Bytes) (ending : SourceEnd) : State :=
  { State.reset with rh := { State.reset.rh with source := { bytes := bytes, ending := ending } } }

/-- The write half after one WRITE_FRAME: its result, the sink's bytes, its run state. -/
def written (o : Host.Outcome State Fault Refusal) : Option (List WResult × Bytes × Run) :=
  match o with
  | .next t => some (t.wh.responses, t.wh.sink.accepted, t.wh.run)
  | _ => none

/-- The read half after one READ_FRAME: its result, the bytes left, its run state. -/
def readBack (o : Host.Outcome State Fault Refusal) : Option (List RResult × Bytes × Run) :=
  match o with
  | .next t => some (t.rh.responses, t.rh.source.bytes, t.rh.run)
  | _ => none

/-- One WRITE_FRAME on a raw-mode block. -/
def write (f : Command) : Option (List WResult × Bytes × Run) := written (writeStep f (raw .accepts [] .silent))

/-- One READ_FRAME on a raw-mode block whose source ends after the bytes. -/
def readOf (bytes : Bytes) : Option (List RResult × Bytes × Run) := readBack (readStep (raw .accepts bytes .eof))

/-! ## WellFormed: one ill-formed term for each check (R102) -/

theorem test_synStream_wellFormed :
    (Instr.synStream (.write ⟨{}, 255, 0xFFFFFFFF, 0xFFFFFFFF, 7, 255, [⟨[0x61#8], [[]]⟩]⟩)).wellFormed = true := by decide

theorem test_synStream_illFormed :
    (Instr.synStream (.write { flags := 256 })).wellFormed = false ∧
    (Instr.synStream (.write { streamId := 0x100000000 })).wellFormed = false ∧
    (Instr.synStream (.write { associatedStreamId := 0x100000000 })).wellFormed = false ∧
    (Instr.synStream (.write { priority := 8 })).wellFormed = false ∧
    (Instr.synStream (.write { slot := 256 })).wellFormed = false := by decide

theorem test_headerName_illFormed (n : Nat) (h : 2 ^ 32 ≤ n) (v : List Bytes) :
    headerListWellFormed [⟨List.replicate n 0x61#8, v⟩] = false := by
  simp [headerListWellFormed, HeaderEntry.wellFormed, fits]
  omega

theorem test_headerValue_illFormed (n : Nat) (h : 2 ^ 32 ≤ n) :
    headerListWellFormed [⟨[], [List.replicate n 0x61#8]⟩] = false := by
  simp [headerListWellFormed, HeaderEntry.wellFormed, fits, joinedLength]
  omega

theorem test_headerCount_illFormed (n : Nat) (h : 2 ^ 32 ≤ n) :
    headerListWellFormed (List.replicate n ⟨[], []⟩) = false := by
  simp [headerListWellFormed, fits]
  omega

theorem test_synReply_illFormed :
    (Instr.synReply (.write { flags := 256 })).wellFormed = false ∧
    (Instr.synReply (.write { streamId := 0x100000000 })).wellFormed = false := by decide

theorem test_headers_illFormed :
    (Instr.headers (.write { flags := 256 })).wellFormed = false ∧
    (Instr.headers (.write { streamId := 0x100000000 })).wellFormed = false := by decide

theorem test_rstStream_illFormed :
    (Instr.rstStream (.write { flags := 256 })).wellFormed = false ∧
    (Instr.rstStream (.write { streamId := 0x100000000 })).wellFormed = false ∧
    (Instr.rstStream (.write { status := 0x100000000 })).wellFormed = false := by decide

theorem test_settings_illFormed :
    (Instr.settings (.write { flags := 256 })).wellFormed = false ∧
    (Instr.settings (.write { entries := [{ flag := 256 }] })).wellFormed = false ∧
    (Instr.settings (.write { entries := [{ id := 0x1000000 }] })).wellFormed = false ∧
    (Instr.settings (.write { entries := [{ value := 0x100000000 }] })).wellFormed = false := by decide

theorem test_settingsCount_illFormed (n : Nat) (h : 2 ^ 32 ≤ n) :
    (Instr.settings (.write { entries := List.replicate n {} })).wellFormed = false := by
  simp [Instr.wellFormed, SettingsCmd.wellFormed, fits]
  omega

theorem test_ping_illFormed :
    (Instr.ping (.write { flags := 256 })).wellFormed = false ∧
    (Instr.ping (.write { id := 0x100000000 })).wellFormed = false := by decide

theorem test_goAway_illFormed :
    (Instr.goAway (.write { flags := 256 })).wellFormed = false ∧
    (Instr.goAway (.write { lastGoodStreamId := 0x100000000 })).wellFormed = false ∧
    (Instr.goAway (.write { status := 0x100000000 })).wellFormed = false := by decide

theorem test_windowUpdate_illFormed :
    (Instr.windowUpdate (.write { flags := 256 })).wellFormed = false ∧
    (Instr.windowUpdate (.write { streamId := 0x100000000 })).wellFormed = false ∧
    (Instr.windowUpdate (.write { deltaWindowSize := 0x100000000 })).wellFormed = false := by decide

theorem test_data_illFormed :
    (Instr.data (.write { flags := 256 })).wellFormed = false ∧
    (Instr.data (.write { streamId := 0x100000000 })).wellFormed = false := by decide

theorem test_unknown_illFormed :
    (Instr.unknownControlType (.write { kindCode := 0x10000 })).wellFormed = false ∧
    (Instr.unknownControlType (.write { kindCode := 1 })).wellFormed = false ∧
    (Instr.unknownControlType (.read ⟨3, 9, 0, 0⟩)).wellFormed = false := by decide

/-! ## Decoding: each constructor by a word of the spec's encoding (R81 to R85, R100) -/

/-- 1 ‖ version 0x1234 ‖ type, then flags 0xA5 ‖ length 0x010203. -/
theorem test_synStream_decode :
    decode [0x92#8, 0x34#8, 0x00#8, 0x01#8, 0xa5#8, 0x01#8, 0x02#8, 0x03#8, 0xff#8] = .ok (.synStream (.read ⟨0x1234, 0xA5, 0x010203⟩), [0xff#8]) := by rfl

/-- 1 ‖ version 0x1234 ‖ type, then flags 0xA5 ‖ length 0x010203. -/
theorem test_synReply_decode :
    decode [0x92#8, 0x34#8, 0x00#8, 0x02#8, 0xa5#8, 0x01#8, 0x02#8, 0x03#8, 0xff#8] = .ok (.synReply (.read ⟨0x1234, 0xA5, 0x010203⟩), [0xff#8]) := by rfl

/-- 1 ‖ version 0x1234 ‖ type, then flags 0xA5 ‖ length 0x010203. -/
theorem test_rstStream_decode :
    decode [0x92#8, 0x34#8, 0x00#8, 0x03#8, 0xa5#8, 0x01#8, 0x02#8, 0x03#8, 0xff#8] = .ok (.rstStream (.read ⟨0x1234, 0xA5, 0x010203⟩), [0xff#8]) := by rfl

/-- 1 ‖ version 0x1234 ‖ type, then flags 0xA5 ‖ length 0x010203. -/
theorem test_settings_decode :
    decode [0x92#8, 0x34#8, 0x00#8, 0x04#8, 0xa5#8, 0x01#8, 0x02#8, 0x03#8, 0xff#8] = .ok (.settings (.read ⟨0x1234, 0xA5, 0x010203⟩), [0xff#8]) := by rfl

/-- 1 ‖ version 0x1234 ‖ type, then flags 0xA5 ‖ length 0x010203. -/
theorem test_ping_decode :
    decode [0x92#8, 0x34#8, 0x00#8, 0x06#8, 0xa5#8, 0x01#8, 0x02#8, 0x03#8, 0xff#8] = .ok (.ping (.read ⟨0x1234, 0xA5, 0x010203⟩), [0xff#8]) := by rfl

/-- 1 ‖ version 0x1234 ‖ type, then flags 0xA5 ‖ length 0x010203. -/
theorem test_goAway_decode :
    decode [0x92#8, 0x34#8, 0x00#8, 0x07#8, 0xa5#8, 0x01#8, 0x02#8, 0x03#8, 0xff#8] = .ok (.goAway (.read ⟨0x1234, 0xA5, 0x010203⟩), [0xff#8]) := by rfl

/-- 1 ‖ version 0x1234 ‖ type, then flags 0xA5 ‖ length 0x010203. -/
theorem test_headers_decode :
    decode [0x92#8, 0x34#8, 0x00#8, 0x08#8, 0xa5#8, 0x01#8, 0x02#8, 0x03#8, 0xff#8] = .ok (.headers (.read ⟨0x1234, 0xA5, 0x010203⟩), [0xff#8]) := by rfl

/-- 1 ‖ version 0x1234 ‖ type, then flags 0xA5 ‖ length 0x010203. -/
theorem test_windowUpdate_decode :
    decode [0x92#8, 0x34#8, 0x00#8, 0x09#8, 0xa5#8, 0x01#8, 0x02#8, 0x03#8, 0xff#8] = .ok (.windowUpdate (.read ⟨0x1234, 0xA5, 0x010203⟩), [0xff#8]) := by rfl

/-- 0 ‖ stream id 0x12345678, then flags 0xA5 ‖ length 0x010203. -/
theorem test_data_decode :
    decode [0x12#8, 0x34#8, 0x56#8, 0x78#8, 0xa5#8, 0x01#8, 0x02#8, 0x03#8, 0xff#8] = .ok (.data (.read ⟨0x12345678, 0xA5, 0x010203⟩), [0xff#8]) := by rfl

/-- The types 0x0000, 0x0005 and 0x000A select no variant (R104). -/
theorem test_unknownControlType_decode :
    decode [0x92#8, 0x34#8, 0x00#8, 0x05#8, 0xa5#8, 0x01#8, 0x02#8, 0x03#8] = .ok (.unknownControlType (.read ⟨0x1234, 5, 0xA5, 0x010203⟩), []) ∧
    decode [0x80#8, 0x03#8, 0x00#8, 0x00#8, 0x00#8, 0x00#8, 0x00#8, 0x00#8] = .ok (.unknownControlType (.read ⟨3, 0, 0, 0⟩), []) ∧
    decode [0x80#8, 0x03#8, 0x00#8, 0x0a#8, 0x00#8, 0x00#8, 0x00#8, 0x00#8] = .ok (.unknownControlType (.read ⟨3, 10, 0, 0⟩), []) := by
  refine ⟨?_, ?_, ?_⟩ <;> rfl

/-- A table word's bit 0 is the least significant bit of w0. -/
theorem test_tableWord : decodeTableWord 64 0xA501020392340009 =
    some (.windowUpdate (.read ⟨0x1234, 0xA5, 0x010203⟩)) := by rfl

/-! ## One step on the spec's vectors -/

/-- Vector S9: the reserved bit of the associated id is cleared, the priority stands in the top bits. -/
theorem test_synStream_write :
    write (.synStream { streamId := 1, associatedStreamId := 0x80000005, priority := 7, slot := 255 }) =
      some ([⟨.ok, 0⟩], [0x80#8, 0x03#8, 0x00#8, 0x01#8, 0x00#8, 0x00#8, 0x00#8, 0x0e#8, 0x00#8, 0x00#8, 0x00#8, 0x01#8, 0x00#8, 0x00#8, 0x00#8, 0x05#8, 0xe0#8, 0xff#8, 0x00#8, 0x00#8, 0x00#8, 0x00#8], .ready) := by rfl

/-- Vector S8. -/
theorem test_synStream_read :
    readOf [0x80#8, 0x03#8, 0x00#8, 0x01#8, 0x00#8, 0x00#8, 0x00#8, 0x20#8, 0x00#8, 0x00#8, 0x00#8, 0x01#8, 0x00#8, 0x00#8, 0x00#8, 0x00#8, 0x60#8, 0x00#8, 0x00#8, 0x00#8, 0x00#8, 0x01#8, 0x00#8, 0x00#8, 0x00#8, 0x07#8, 0x3a#8, 0x6d#8, 0x65#8, 0x74#8, 0x68#8, 0x6f#8, 0x64#8, 0x00#8, 0x00#8, 0x00#8, 0x03#8, 0x47#8, 0x45#8, 0x54#8] =
      some ([⟨.ok, 0, some (.synStream ⟨3, 1, 0, 32⟩ 1 0 3 0 [⟨[0x3a#8, 0x6d#8, 0x65#8, 0x74#8, 0x68#8, 0x6f#8, 0x64#8], [[0x47#8, 0x45#8, 0x54#8]]⟩]), []⟩], [], .ready) := by rfl

/-- Vector B3: names are lowercased and not checked for duplicates. -/
theorem test_synReply_write :
    write (.synReply { streamId := 1, headers := [⟨[0x48#8, 0x6f#8, 0x73#8, 0x74#8], [[0x61#8]]⟩, ⟨[0x68#8, 0x6f#8, 0x73#8, 0x74#8], [[0x62#8]]⟩] }) =
      some ([⟨.ok, 0⟩],
        [0x80#8, 0x03#8, 0x00#8, 0x02#8, 0x00#8, 0x00#8, 0x00#8, 0x22#8, 0x00#8, 0x00#8, 0x00#8, 0x01#8, 0x00#8, 0x00#8, 0x00#8, 0x02#8, 0x00#8, 0x00#8, 0x00#8, 0x04#8, 0x68#8, 0x6f#8, 0x73#8, 0x74#8, 0x00#8, 0x00#8, 0x00#8, 0x01#8, 0x61#8, 0x00#8, 0x00#8, 0x00#8, 0x04#8, 0x68#8, 0x6f#8, 0x73#8, 0x74#8, 0x00#8, 0x00#8, 0x00#8, 0x01#8, 0x62#8],
        .ready) := by rfl

/-- Vector B6: the case diagnostic, then the duplicate's, and the values in order. -/
theorem test_synReply_read :
    readOf [0x80#8, 0x03#8, 0x00#8, 0x02#8, 0x00#8, 0x00#8, 0x00#8, 0x1c#8, 0x00#8, 0x00#8, 0x00#8, 0x01#8, 0x00#8, 0x00#8, 0x00#8, 0x02#8, 0x00#8, 0x00#8, 0x00#8, 0x01#8, 0x61#8, 0x00#8, 0x00#8, 0x00#8, 0x01#8, 0x31#8, 0x00#8, 0x00#8, 0x00#8, 0x01#8, 0x41#8, 0x00#8, 0x00#8, 0x00#8, 0x01#8, 0x32#8] =
      some ([⟨.ok, 0, some (.synReply ⟨3, 2, 0, 28⟩ 1 [⟨[0x61#8], [[0x31#8], [0x32#8]]⟩]),
        [⟨.unlowercasedHeaderName, 1⟩, ⟨.duplicateHeaders, 1⟩]⟩], [], .ready) := by rfl

/-- Vector S15. -/
theorem test_headers_write :
    write (.headers { streamId := 2, headers := [⟨[0x78#8], [[0x31#8]]⟩] }) =
      some ([⟨.ok, 0⟩],
        [0x80#8, 0x03#8, 0x00#8, 0x08#8, 0x00#8, 0x00#8, 0x00#8, 0x12#8, 0x00#8, 0x00#8, 0x00#8, 0x02#8, 0x00#8, 0x00#8, 0x00#8, 0x01#8, 0x00#8, 0x00#8, 0x00#8, 0x01#8, 0x78#8, 0x00#8, 0x00#8, 0x00#8, 0x01#8, 0x31#8], .ready) := by rfl

/-- Vector S16, CONVENTION: host is banned on an odd stream. -/
theorem test_headers_read :
    readOf [0x80#8, 0x03#8, 0x00#8, 0x08#8, 0x00#8, 0x00#8, 0x00#8, 0x15#8, 0x00#8, 0x00#8, 0x00#8, 0x01#8, 0x00#8, 0x00#8, 0x00#8, 0x01#8, 0x00#8, 0x00#8, 0x00#8, 0x04#8, 0x68#8, 0x6f#8, 0x73#8, 0x74#8, 0x00#8, 0x00#8, 0x00#8, 0x01#8, 0x61#8] =
      some ([⟨.invalidHeaderPresent, 1, none, []⟩], [], .ready) := by rfl

/-- Vector F2: the flags pass through. -/
theorem test_rstStream_write :
    write (.rstStream { streamId := 1, status := 5, flags := 1 }) =
      some ([⟨.ok, 0⟩], [0x80#8, 0x03#8, 0x00#8, 0x03#8, 0x01#8, 0x00#8, 0x00#8, 0x08#8, 0x00#8, 0x00#8, 0x00#8, 0x01#8, 0x00#8, 0x00#8, 0x00#8, 0x05#8], .ready) := by rfl

/-- Vector F7, first read: the length is not checked, the reserved bit of F5 is masked. -/
theorem test_rstStream_read :
    readOf [0x80#8, 0x03#8, 0x00#8, 0x03#8, 0x00#8, 0x00#8, 0x00#8, 0x0c#8, 0x80#8, 0x00#8, 0x00#8, 0x01#8, 0x00#8, 0x00#8, 0x00#8, 0x05#8, 0x80#8, 0x03#8, 0x00#8, 0x06#8] =
      some ([⟨.ok, 0, some (.rstStream ⟨3, 3, 0, 12⟩ 1 5), []⟩], [0x80#8, 0x03#8, 0x00#8, 0x06#8], .ready) := by rfl

/-- Vector F9. -/
theorem test_settings_write :
    write (.settings { entries := [{ flag := 1, id := 7, value := 0xFFFFFFFF }, { id := 0xFFFFFF }] }) =
      some ([⟨.ok, 0⟩], [0x80#8, 0x03#8, 0x00#8, 0x04#8, 0x00#8, 0x00#8, 0x00#8, 0x14#8, 0x00#8, 0x00#8, 0x00#8, 0x02#8, 0x01#8, 0x00#8, 0x00#8, 0x07#8, 0xff#8, 0xff#8, 0xff#8, 0xff#8, 0x00#8, 0xff#8, 0xff#8, 0xff#8, 0x00#8, 0x00#8, 0x00#8, 0x00#8], .ready) := by rfl

/-- Vector F12. -/
theorem test_settings_read :
    readOf [0x80#8, 0x03#8, 0x00#8, 0x04#8, 0x00#8, 0x00#8, 0x00#8, 0x14#8, 0x00#8, 0x00#8, 0x00#8, 0x02#8, 0x01#8, 0x00#8, 0x00#8, 0x07#8, 0xff#8, 0xff#8, 0xff#8, 0xff#8, 0x00#8, 0xff#8, 0xff#8, 0xff#8, 0x00#8, 0x00#8, 0x00#8, 0x00#8] =
      some ([⟨.ok, 0, some (.settings ⟨3, 4, 0, 20⟩ [⟨1, 7, 0xFFFFFFFF⟩, ⟨0, 0xFFFFFF, 0⟩]), []⟩], [], .ready) := by rfl

/-- Vector H1: version, type, flags and length are filled by the block. -/
theorem test_ping_write :
    write (.ping { host := ⟨2, 9, 99⟩, flags := 0xFF, id := 1 }) =
      some ([⟨.ok, 0⟩], [0x80#8, 0x03#8, 0x00#8, 0x06#8, 0x00#8, 0x00#8, 0x00#8, 0x04#8, 0x00#8, 0x00#8, 0x00#8, 0x01#8], .ready) := by rfl

/-- Vector F16: the flags check comes before the zero check. -/
theorem test_ping_read :
    readOf [0x80#8, 0x03#8, 0x00#8, 0x06#8, 0x01#8, 0x00#8, 0x00#8, 0x04#8, 0x00#8, 0x00#8, 0x00#8, 0x00#8] = some ([⟨.invalidControlFrame, 0, none, []⟩], [], .ready) := by rfl

/-- Vector F17. -/
theorem test_goAway_write :
    write (.goAway { lastGoodStreamId := 0x80000001, status := 2, flags := 0xFF }) =
      some ([⟨.ok, 0⟩], [0x80#8, 0x03#8, 0x00#8, 0x07#8, 0x00#8, 0x00#8, 0x00#8, 0x08#8, 0x00#8, 0x00#8, 0x00#8, 0x01#8, 0x00#8, 0x00#8, 0x00#8, 0x02#8], .ready) := by rfl

/-- Vector F19: a wire length of 9 is rejected with 16 bytes consumed. -/
theorem test_goAway_read :
    readOf [0x80#8, 0x03#8, 0x00#8, 0x07#8, 0x00#8, 0x00#8, 0x00#8, 0x09#8, 0x00#8, 0x00#8, 0x00#8, 0x01#8, 0x00#8, 0x00#8, 0x00#8, 0x00#8, 0x00#8] =
      some ([⟨.invalidControlFrame, 0, none, []⟩], [0x00#8], .ready) := by rfl

/-- Vector F20. -/
theorem test_windowUpdate_write :
    write (.windowUpdate { streamId := 0x80000003, deltaWindowSize := 0xFFFFFFFF }) =
      some ([⟨.ok, 0⟩], [0x80#8, 0x03#8, 0x00#8, 0x09#8, 0x00#8, 0x00#8, 0x00#8, 0x08#8, 0x00#8, 0x00#8, 0x00#8, 0x03#8, 0x7f#8, 0xff#8, 0xff#8, 0xff#8], .ready) := by rfl

/-- Vector F22: the error carries the masked stream id. -/
theorem test_windowUpdate_read :
    readOf [0x80#8, 0x03#8, 0x00#8, 0x09#8, 0x01#8, 0x00#8, 0x00#8, 0x08#8, 0x00#8, 0x00#8, 0x00#8, 0x03#8, 0x00#8, 0x00#8, 0x00#8, 0x01#8] =
      some ([⟨.invalidControlFrame, 3, none, []⟩], [], .ready) := by rfl

/-- Vector D3: bit 31 is checked before zero. -/
theorem test_data_write :
    write (.data { streamId := 0x80000000 }) = some ([⟨.invalidDataFrame, 0⟩], [], .ready) := by rfl

/-- Vector D9: the source ends inside the payload. -/
theorem test_data_read :
    readOf [0x00#8, 0x00#8, 0x00#8, 0x01#8, 0x00#8, 0x00#8, 0x00#8, 0x05#8, 0x68#8, 0x69#8] =
      some ([⟨.ioError .unexpectedEof, 0, none, []⟩], [], .broken) := by rfl

/-- Vector H2. -/
theorem test_unknown_write :
    write (.control { kindCode := 5 }) = some ([⟨.unknownFrameType, 0⟩], [], .ready) := by rfl

/-- Vector H8: the payload is left to the host. -/
theorem test_unknown_read :
    readOf [0x80#8, 0x03#8, 0x00#8, 0x05#8, 0x00#8, 0x00#8, 0x00#8, 0x04#8, 0xde#8, 0xad#8, 0xbe#8, 0xef#8] =
      some ([⟨.invalidControlFrame, 0, none, []⟩], [0xde#8, 0xad#8, 0xbe#8, 0xef#8], .ready) := by rfl

/-- Vector H12: SINK_PREFIX = 5. -/
theorem test_sinkFails :
    written (writeStep (.ping { id := 1 }) (raw (.failsAfter 5 7) [] .silent)) =
      some ([⟨.ioError (.transport 7), 0⟩], [0x80#8, 0x03#8, 0x00#8, 0x06#8, 0x00#8], .broken) := by rfl

/-- Vector Z7: a SynReply of length 3 in compressed mode. -/
theorem test_lengthTooSmall :
    readBack (readStep (compressed [0x80#8, 0x03#8, 0x00#8, 0x02#8, 0x00#8, 0x00#8, 0x00#8, 0x03#8, 0x00#8, 0x00#8, 0x00#8] .eof)) =
      some ([⟨.invalidControlFrame, 0, none, []⟩], [0x00#8, 0x00#8, 0x00#8], .broken) := by rfl

/-! ## A small engine (R170, R171)

A byte is written as 1 and the byte, a flush as 0. Only the dictionary [0] is its own. -/

/-- What the small engine emits for a block. -/
def toyOut : Bytes → Bytes
  | [] => [0x00#8]
  | b :: bs => 0x01#8 :: b :: toyOut bs

/-- What the small engine completes of its input, and whether the input ends at a flush. -/
def toyIn : Bytes → Bytes × Bool
  | [] => ([], false)
  | [b] => ([], b == 0x00#8)
  | b :: c :: bs => if b = 0x00#8 then toyIn (c :: bs) else (c :: (toyIn bs).1, (toyIn bs).2)

def toy : Engine :=
  { deflateInit := fun _ _ => ⟨0⟩
    deflateBlock := fun cs b => (cs, toyOut b)
    inflateInit := fun d => if d = [0x00#8] then ⟨0⟩ else ⟨1⟩
    inflateFeed := fun ds bs => if ds = ⟨0⟩ then .fed ds (toyIn bs).1 (toyIn bs).2 else .zerr 3 }

theorem toyIn_toyOut (b : Bytes) : toyIn (toyOut b) = (b, true) := by
  induction b with
  | nil => rfl
  | cons x b ih => simp [toyOut, toyIn, ih]

theorem toyIn_take (b : Bytes) (n : Nat) (h : n < (toyOut b).length) :
    (toyIn ((toyOut b).take n)).1 <+: b ∧ ¬ (toyIn ((toyOut b).take n) = (b, true)) := by
  induction b generalizing n with
  | nil =>
    have : n = 0 := by simp [toyOut] at h; omega
    subst this
    simp [toyIn]
  | cons x b ih =>
    match n with
    | 0 => simp [toyIn]
    | 1 => simp [toyOut, toyIn]
    | n + 2 =>
      have h' : n < (toyOut b).length := by simpa [toyOut] using h
      obtain ⟨h1, h2⟩ := ih n h'
      simp only [toyOut, List.take_succ_cons, toyIn]
      refine ⟨by simpa using h1, fun h3 => h2 ?_⟩
      simp at h3
      exact Prod.ext h3.1 h3.2

theorem toy_inStep (cs : CState) : toy.inStep cs ⟨0⟩ := by
  intro bs
  induction bs generalizing cs with
  | nil => trivial
  | cons b bs ih => exact ⟨⟨0⟩, by simp [toy, toyIn_toyOut], ih _⟩

theorem toy_truncates (cs : CState) (b : Bytes) : toy.truncates cs ⟨0⟩ b := by
  intro n h
  obtain ⟨h1, h2⟩ := toyIn_take b n h
  exact ⟨⟨0⟩, _, _, rfl, h1, fun h3 => h2 (Prod.ext h3.1 h3.2)⟩

theorem toy_truncatesAll (level : Nat) : toy.truncatesAll [0x00#8] level := by
  suffices h : ∀ (bs : List Bytes) (cs : CState) (cs' : CState) (ds' : DState), toy.carries cs ⟨0⟩ bs cs' ds' → ds' = ⟨0⟩ by
    intro bs b cs ds hc
    rw [h bs _ cs ds hc]
    exact toy_truncates _ _
  intro bs
  induction bs with
  | nil => exact fun _ _ _ h => h.2
  | cons b bs ih =>
    rintro cs cs' ds' ⟨ds₁, h1, h2⟩
    have : (⟨0⟩ : DState) = ds₁ := by simp [toy] at h1; exact h1.1
    subst this; exact ih _ _ _ h2

theorem toy_nonEmpty (level : Nat) : toy.nonEmpty [0x00#8] level := by
  intro bs b
  show toyOut b ≠ []
  cases b <;> simp [toyOut]

theorem toy_needsDictionary (level : Nat) : toy.needsDictionary [0x00#8] level := by
  intro d' b h
  exact ⟨3, by simp [toy, h]⟩

/-! ## Witnesses: for every statement with hypotheses, values that meet them, clause by clause

Two header lists, the values at the edges of their clauses, and states with a port or a source to fit. -/

/-- One canonical header, banned nowhere. -/
def someHeaders : HeaderList := [⟨[0x78#8], [[0x31#8], []]⟩]

theorem witness_ResetActionLeavesTheValuesOfR40 :
    (State.reset.wh.request = none ∧ State.reset.rh.request = false) ∧
    (true = true ∨ false = true) ∧ (false = true ∨ true = true) ∧ (false = false ∧ false = false) := by decide

theorem witness_InitFailureLeavesNoBlock : State.reset.wh.request = none ∧ State.reset.rh.request = false := by decide

theorem witness_StateResetIsAResetInCompressedMode :
    let s := raw .accepts [0x01#8] .eof
    s.wh.request = none ∧ s.rh.request = false ∧ s.wh.draws = 0 ∧ s.rh.draws = 0 ∧ s.turns = [] := by decide

theorem witness_VariantSelectionFollowsTheMasks :
    0xFFFF0001#32 &&& 0x8000FFFF#32 = 0x80000001#32 ∧ 0xFFFF0002#32 &&& 0x8000FFFF#32 = 0x80000002#32 ∧
    0xFFFF0003#32 &&& 0x8000FFFF#32 = 0x80000003#32 ∧ 0xFFFF0004#32 &&& 0x8000FFFF#32 = 0x80000004#32 ∧
    0xFFFF0006#32 &&& 0x8000FFFF#32 = 0x80000006#32 ∧ 0xFFFF0007#32 &&& 0x8000FFFF#32 = 0x80000007#32 ∧
    0xFFFF0008#32 &&& 0x8000FFFF#32 = 0x80000008#32 ∧ 0xFFFF0009#32 &&& 0x8000FFFF#32 = 0x80000009#32 ∧
    0x7FFFFFFF#32 &&& 0x80000000#32 = 0 ∧
    0xFFFFFFFF#32 &&& 0x80000000#32 = 0x80000000#32 ∧
    (∀ t ∈ [1, 2, 3, 4, 6, 7, 8, 9], 0xFFFFFFFF#32 &&& 0xFFFF#32 ≠ BitVec.ofNat 32 t) ∧
    0x80000000#32 &&& 0x80000000#32 = 0x80000000#32 ∧
    (∀ t ∈ [1, 2, 3, 4, 6, 7, 8, 9], 0x80000000#32 &&& 0xFFFF#32 ≠ BitVec.ofNat 32 t) := by
  refine ⟨?_, ?_, ?_, ?_, ?_, ?_, ?_, ?_, ?_, ?_, ?_, ?_, ?_⟩ <;> decide

theorem witness_EncodedHeadersDecodeBack :
    (∀ i ∈ [Instr.ping (.read ⟨0x7FFF, 0xFF, 0xFFFFFF⟩), .unknownControlType (.read ⟨0, 0xFFFF, 0, 0⟩),
      .data (.read ⟨0x7FFFFFFF, 0xFF, 0xFFFFFF⟩)], i.isRead = true ∧ i.wellFormed = true) := by decide

theorem witness_DecodedHeadersEncodeBack :
    decode [0xFF#8, 0xFF#8, 0x00#8, 0x06#8, 0xFF#8, 0xFF#8, 0xFF#8, 0xFF#8, 0x01#8] =
      .ok (.ping (.read ⟨0x7FFF, 0xFF, 0xFFFFFF⟩), [0x01#8]) := by rfl

theorem witness_PriorityOccupiesTheTopThreeBits : 7 < 8 := by decide

theorem witness_SplitAndJoinOnNul :
    ([[], [0x01#8], []] : List Bytes) ≠ [] ∧ ∀ v ∈ ([[], [0x01#8], []] : List Bytes), 0x00#8 ∉ v := by decide

theorem witness_LowercasingIsAsciiAndIdempotent :
    ([0x40#8, 0x41#8, 0x5A#8, 0x5B#8] : Bytes)[1]? = some 0x41#8 ∧
    ([0x40#8, 0x41#8, 0x5A#8, 0x5B#8] : Bytes)[3]? = some 0x5B#8 := by decide

/-- An uppercase name, a repeated one, an empty value list and a NUL inside a value: well-formed, not canonical. -/
def looseHeaders : HeaderList := [⟨[0x41#8], [[0x31#8, 0x00#8]]⟩, ⟨[0x61#8], []⟩, ⟨[], [[], []]⟩]

theorem witness_BlockEntriesGiveMapAndDiagnostics :
    (([] : List (Bytes × Bytes)).length < 2 ^ 32 ∧ 3 < (wireBlock []).length) ∧
    wireFits [([0x41#8], [0x31#8]), ([0x61#8], [])] ∧ 22 < (wireBlock [([0x41#8], [0x31#8]), ([0x61#8], [])]).length := by
  refine ⟨by decide, ⟨by decide, ?_⟩, by decide⟩
  simp

theorem witness_SerializedBlocksParseBack :
    (headerListWellFormed looseHeaders = true ∧ canonicalHeaders looseHeaders = false) ∧
    (headerListWellFormed someHeaders = true ∧ canonicalHeaders someHeaders = true) ∧
    (headerListWellFormed [] = true ∧ canonicalHeaders [] = true) := by decide

/-- The raw payload of one entry whose value has `n` bytes is `n` and 13 bytes more than its fixed fields. -/
theorem length_bigBlock (n : Nat) : (hbSerialize [⟨[0x61#8], [List.replicate n 0x62#8]⟩]).length = n + 13 := by
  simp [hbSerialize, serializeEntry, lengthPrefixed, joinNul, lower]
  omega

theorem wellFormed_bigBlock (n : Nat) (h : n < 0x100000000) :
    headerListWellFormed [⟨[0x61#8], [List.replicate n 0x62#8]⟩] = true := by
  simp [headerListWellFormed, HeaderEntry.wellFormed, fits, joinedLength]
  omega

theorem witness_SynStreamWriteOutcome :
    (∀ s ∈ [raw .accepts [] .eof, raw (.failsAfter 0 7) [] .eof, raw (.silentAfter 21) [] .eof, State.reset],
      s.canWrite ∧ s.wh.scratch = []) ∧
    ((Instr.synStream (.write { streamId := 0x80000000 })).wellFormed = true ∧ 0x80000000 % 2 ^ 31 = 0) ∧
    ((Instr.synStream (.write { streamId := 0xFFFFFFFF, priority := 7 })).wellFormed = true ∧ 0xFFFFFFFF % 2 ^ 31 ≠ 0) ∧
    (raw .accepts [] .eof).cfg.nocomp = true ∧ State.reset.cfg.nocomp = false ∧
    State.reset.wh.zc = some (Config.engine.deflateInit Config.dict Config.level) := by
  refine ⟨by decide, by decide, by decide, rfl, rfl, rfl⟩

/-- The payload of 0xFFFFFF bytes, and the one a byte longer, of each header-bearing command in raw mode. -/
theorem witness_writesBlock_lengths (f : SynStreamCmd) (g : SynReplyCmd) (h : HeadersCmd) :
    (f.fixedFields ++ hbSerialize [⟨[0x61#8], [List.replicate 0xFFFFE8 0x62#8]⟩]).length = 0xFFFFFF ∧
    (f.fixedFields ++ hbSerialize [⟨[0x61#8], [List.replicate 0xFFFFE9 0x62#8]⟩]).length = 0xFFFFFF + 1 ∧
    (g.fixedFields ++ hbSerialize [⟨[0x61#8], [List.replicate 0xFFFFEE 0x62#8]⟩]).length = 0xFFFFFF ∧
    (g.fixedFields ++ hbSerialize [⟨[0x61#8], [List.replicate 0xFFFFEF 0x62#8]⟩]).length = 0xFFFFFF + 1 ∧
    (h.fixedFields ++ hbSerialize [⟨[0x61#8], [List.replicate 0xFFFFEF 0x62#8]⟩]).length = 0xFFFFFF + 1 ∧
    headerListWellFormed [⟨[0x61#8], [List.replicate 0xFFFFEF 0x62#8]⟩] = true := by
  refine ⟨?_, ?_, ?_, ?_, ?_, wellFormed_bigBlock _ (by decide)⟩ <;>
    simp only [List.length_append, length_bigBlock, SynStreamCmd.fixedFields, SynReplyCmd.fixedFields,
      HeadersCmd.fixedFields, length_be32, List.length_cons, List.length_nil]

theorem witness_SynReplyWriteOutcome :
    (∀ s ∈ [raw .accepts [] .eof, raw (.failsAfter 15 7) [] .eof, State.reset], s.canWrite ∧ s.wh.scratch = []) ∧
    ((Instr.synReply (.write { streamId := 0 })).wellFormed = true ∧ 0 % 2 ^ 31 = 0) ∧
    ((Instr.synReply (.write { streamId := 1, headers := someHeaders })).wellFormed = true ∧ 1 % 2 ^ 31 ≠ 0) := by decide

theorem witness_HeadersWriteOutcome :
    (∀ s ∈ [raw .accepts [] .eof, raw (.failsAfter 15 7) [] .eof, State.reset], s.canWrite ∧ s.wh.scratch = []) ∧
    ((Instr.headers (.write { streamId := 0 })).wellFormed = true ∧ 0 % 2 ^ 31 = 0) ∧
    ((Instr.headers (.write { streamId := 1, headers := someHeaders })).wellFormed = true ∧ 1 % 2 ^ 31 ≠ 0) := by decide

/-- The ports of State.emits at the edges of a frame of 16 bytes: exactly room enough, and one byte less. -/
theorem witness_emits :
    (raw (.failsAfter 16 7) [] .eof).wh.sink.port.hasRoom 16 = true ∧
    ((raw (.failsAfter 15 7) [] .eof).wh.sink.port = .failsAfter 15 7 ∧ 15 < 16) ∧
    (raw (.silentAfter 16) [] .eof).wh.sink.port.hasRoom 16 = true ∧
    (raw .accepts [] .eof).wh.sink.port.hasRoom 16 = true := by decide

theorem witness_RstStreamWriteOutcome :
    (raw .accepts [] .eof).canWrite ∧
    ((Instr.rstStream (.write { streamId := 0x80000000, status := 0 })).wellFormed = true) ∧
    ((Instr.rstStream (.write { streamId := 0x80000000, status := 1 })).wellFormed = true ∧ 1 ≠ 0 ∧ 0x80000000 % 2 ^ 31 = 0) ∧
    ((Instr.rstStream (.write { streamId := 0xFFFFFFFF, status := 0xFFFFFFFF })).wellFormed = true ∧
      0xFFFFFFFF ≠ 0 ∧ 0xFFFFFFFF % 2 ^ 31 ≠ 0) := by decide

theorem wellFormed_manySettings (n : Nat) (h : n < 0x100000000) :
    (Instr.settings (.write { entries := List.replicate n {} })).wellFormed = true := by
  simp [Instr.wellFormed, SettingsCmd.wellFormed, SettingsCmdEntry.wellFormed, fits]
  omega

theorem witness_SettingsWriteOutcome :
    (raw .accepts [] .eof).canWrite ∧
    ((Instr.settings (.write { entries := List.replicate 2097152 {} })).wellFormed = true ∧
      (List.replicate 2097152 ({} : SettingsCmdEntry)).length > 2097151) ∧
    ((Instr.settings (.write { entries := List.replicate 2097151 {} })).wellFormed = true ∧
      (List.replicate 2097151 ({} : SettingsCmdEntry)).length ≤ 2097151) := by
  refine ⟨by decide, ⟨wellFormed_manySettings _ (by decide), ?_⟩, wellFormed_manySettings _ (by decide), ?_⟩ <;>
    simp only [List.length_replicate] <;> decide

theorem witness_PingWriteOutcome :
    (raw .accepts [] .eof).canWrite ∧ (Instr.ping (.write { id := 0 })).wellFormed = true ∧
    ((Instr.ping (.write { id := 0xFFFFFFFF })).wellFormed = true ∧ 0xFFFFFFFF ≠ 0) := by decide

theorem witness_GoAwayWriteOutcome :
    (raw .accepts [] .eof).canWrite ∧
    (Instr.goAway (.write { lastGoodStreamId := 0xFFFFFFFF, status := 0, flags := 0xFF })).wellFormed = true := by decide

theorem witness_WindowUpdateWriteOutcome :
    (raw .accepts [] .eof).canWrite ∧
    ((Instr.windowUpdate (.write { streamId := 0x80000000 })).wellFormed = true ∧ 0x80000000 % 2 ^ 31 = 0) ∧
    ((Instr.windowUpdate (.write { streamId := 0x80000001, deltaWindowSize := 0xFFFFFFFF })).wellFormed = true ∧
      0x80000001 % 2 ^ 31 ≠ 0) := by decide

theorem witness_DataWriteOutcome :
    (raw .accepts [] .eof).canWrite ∧
    ((Instr.data (.write { streamId := 0x80000000 })).wellFormed = true ∧ 0x80000000 ≥ 2 ^ 31) ∧
    ((Instr.data (.write { streamId := 0, data := List.replicate 0x1000000 0x61#8 })).wellFormed = true ∧ 0 < 2 ^ 31 ∧
      (List.replicate 0x1000000 0x61#8).length > (raw .accepts [] .eof).cfg.dataMaxLen.toNat) ∧
    ((Instr.data (.write { streamId := 0 })).wellFormed = true ∧
      ([] : Bytes).length ≤ (raw .accepts [] .eof).cfg.dataMaxLen.toNat) ∧
    ((Instr.data (.write { streamId := 0x7FFFFFFF, data := List.replicate 0xFFFFFF 0x61#8 })).wellFormed = true ∧
      0 < 0x7FFFFFFF ∧ 0x7FFFFFFF < 2 ^ 31 ∧
      (List.replicate 0xFFFFFF 0x61#8).length ≤ (raw .accepts [] .eof).cfg.dataMaxLen.toNat) := by
  refine ⟨by decide, by decide, ⟨by decide, by decide, ?_⟩, by decide, by decide, by decide, by decide, ?_⟩ <;>
    simp only [List.length_replicate] <;> decide

theorem witness_UnknownKindWriteOutcome :
    (raw .accepts [] .eof).canWrite ∧
    ∀ k ∈ [0x0000, 0x0005, 0x000A, 0xFFFF], k < 2 ^ 16 ∧ k ∉ [1, 2, 3, 4, 6, 7, 8, 9] := by decide

/-! The read outcomes: eight header bytes, then a payload. -/

/-- Eight header bytes: a read form runs after them whatever they are. -/
def hdr : Bytes := [0x80#8, 0x03#8, 0x00#8, 0x02#8, 0x00#8, 0x00#8, 0x00#8, 0x08#8]

theorem witness_reads :
    (∀ ending ∈ [SourceEnd.eof, .error 7], ∀ payload ∈ [[], List.replicate 3 0x00#8, List.replicate 7 0x00#8,
        List.replicate 9 0x00#8],
      (raw .accepts (hdr ++ payload) ending).canRead ∧ (compressed (hdr ++ payload) ending).canRead ∧ hdr.length = 8 ∧
      (raw .accepts (hdr ++ payload) ending).rh.source.bytes = hdr ++ payload ∧
      (compressed (hdr ++ payload) ending).rh.source.bytes = hdr ++ payload ∧
      (raw .accepts (hdr ++ payload) ending).rh.source.ending = ending) ∧
    (raw .accepts [] .eof).cfg.nocomp = true ∧ (compressed [] .eof).cfg.nocomp = false := by decide

/-- The length clauses of the header-bearing reads, each at its edge. -/
theorem witness_SynStreamReadOutcome :
    let h9 : ReadHeader := ⟨3, 0, 9⟩
    let h10 : ReadHeader := ⟨3, 0, 10⟩
    (h9.length.toNat < 10) ∧ (10 ≤ h10.length.toNat) ∧ (List.replicate 9 0x00#8).length < 10 ∧
    (List.replicate 14 0x00#8 = be32 0 ++ be32 0 ++ [0x00#8, 0x00#8] ++ List.replicate 4 0x00#8) := by decide

theorem witness_SynReplyReadOutcome :
    let h3 : ReadHeader := ⟨3, 0, 3⟩
    let h4 : ReadHeader := ⟨3, 0, 4⟩
    (h3.length.toNat < 4) ∧ (4 ≤ h4.length.toNat) ∧ (List.replicate 3 0x00#8).length < 4 ∧
    (List.replicate 8 0x00#8 = be32 0 ++ List.replicate 4 0x00#8) := by decide

theorem witness_HeadersReadOutcome :
    let h3 : ReadHeader := ⟨3, 0, 3⟩
    let h4 : ReadHeader := ⟨3, 0, 4⟩
    (h3.length.toNat < 4) ∧ (4 ≤ h4.length.toNat) ∧ (List.replicate 3 0x00#8).length < 4 ∧
    (List.replicate 8 0x00#8 = be32 0 ++ List.replicate 4 0x00#8) ∧
    ((be32 1 ++ be32 0).take 4 = be32 1 ∧ (1#32).toNat % 2 = 1) := by decide

/-- A raw block that parses, with a byte behind it, and one that runs short. -/
theorem witness_endsRawBlock :
    hbParse 1 [0x00#8, 0x00#8, 0x00#8, 0x00#8, 0xFF#8] = some (⟨[], []⟩, [0xFF#8]) ∧
    hbParse 1 [0x00#8, 0x00#8, 0x00#8, 0x01#8, 0x00#8, 0x00#8, 0x00#8] = none := by decide

/-- The clauses of the fenced block: the source lacks a byte of the fence, or has them all. -/
theorem witness_endsFencedBlock :
    (∀ ending ∈ [SourceEnd.eof, .error 7], (List.replicate 3 0x00#8).length < 4 ∧
      (compressed [] ending).rh.source.ending = ending) ∧
    4 ≤ (List.replicate 4 0x00#8).length := by decide

theorem witness_RstStreamReadOutcome :
    (List.replicate 7 0x00#8).length < 8 ∧ List.replicate 8 0x00#8 = be32 0 ++ be32 0 ++ [] := by decide

theorem witness_SettingsReadOutcome :
    (List.replicate 3 0x00#8).length < 4 ∧
    (be32 1 ++ List.replicate 7 0x00#8 = be32 1 ++ List.replicate 7 0x00#8 ∧
      (List.replicate 7 0x00#8).length < 8 * (1#32).toNat) ∧
    ([(⟨1, 7, 9⟩ : SettingsEntry)].length = (1#32).toNat ∧
      be32 1 ++ [0x01#8, 0x00#8, 0x00#8, 0x07#8, 0x00#8, 0x00#8, 0x00#8, 0x09#8] =
        be32 1 ++ [(⟨1, 7, 9⟩ : SettingsEntry)].flatMap SettingsEntry.wire ++ []) := by decide

theorem witness_PingReadOutcome :
    (List.replicate 3 0x00#8).length < 4 ∧ List.replicate 5 0x00#8 = be32 0 ++ [0x00#8] := by decide

theorem witness_GoAwayReadOutcome :
    (List.replicate 7 0x00#8).length < 8 ∧ List.replicate 9 0x00#8 = be32 0 ++ be32 0 ++ [0x00#8] := by decide

theorem witness_WindowUpdateReadOutcome :
    (List.replicate 7 0x00#8).length < 8 ∧ List.replicate 9 0x00#8 = be32 0 ++ be32 0 ++ [0x00#8] := by decide

theorem witness_DataReadOutcome :
    let h : DataHeader := ⟨1, 1, 3⟩
    ([0x61#8, 0x62#8] : Bytes).length < h.length.toNat ∧ h.length.toNat ≤ ([0x61#8, 0x62#8, 0x63#8] : Bytes).length := by decide

theorem witness_UnknownTypeReadOutcome :
    let s := raw .accepts (be32 0x80030005#32 ++ be32 4 ++ [0xDE#8]) .eof
    s.canRead ∧ s.rh.source.bytes = be32 0x80030005#32 ++ be32 4 ++ [0xDE#8] ∧
    0x80030005#32 &&& 0x80000000#32 = 0x80000000#32 ∧
    ∀ t ∈ [1, 2, 3, 4, 6, 7, 8, 9], 0x80030005#32 &&& 0xFFFF#32 ≠ BitVec.ofNat 32 t := by decide

theorem witness_TruncatedHeaderOutcome :
    (let s := raw .accepts [] .eof; s.canRead ∧ s.rh.source.bytes = [] ∧ s.rh.source.ending = .eof) ∧
    (let s := raw .accepts [] (.error 7); s.canRead ∧ s.rh.source.ending ≠ .eof) ∧
    (let s := raw .accepts [] .silent; s.canRead ∧ s.rh.source.ending ≠ .eof) ∧
    (let s := raw .accepts (List.replicate 7 0x80#8) .eof;
      s.canRead ∧ s.rh.source.bytes.length < 8 ∧ s.rh.source.bytes ≠ []) := by decide

/-! Faults, refusals, run states. -/

/-- A block with both halves BROKEN. -/
def broken : State :=
  { raw .accepts [] .eof with
    wh := { (raw .accepts [] .eof).wh with run := .broken }
    rh := { (raw .accepts [] .eof).rh with run := .broken } }

theorem witness_BrokenHalfFaults :
    broken.life = .live ∧ broken.wh.run = .broken ∧ broken.rh.run = .broken ∧
    (Instr.ping (.write { id := 1 })).isRead = false ∧ (Instr.ping (.read ⟨3, 0, 4⟩)).isRead = true := by decide

theorem witness_IllFormedCommandsAreRefused :
    State.reset.canWrite ∧ exec (.synStream (.write { priority := 8 })) State.reset = .refused .notWellFormed ∧
    2 ^ 16 ≤ 0x10000 ∧ exec (.data (.write { streamId := 0x100000000 })) State.reset = .refused .notWellFormed :=
  ⟨by decide, rfl, by decide, rfl⟩

/-- A raw-mode block with a Ping to write and a Ping to read. -/
def busy : State :=
  { raw .accepts [0x80#8, 0x03#8, 0x00#8, 0x06#8, 0x00#8, 0x00#8, 0x00#8, 0x04#8, 0x00#8, 0x00#8, 0x00#8, 0x01#8] .eof with
    wh := { (raw .accepts [] .eof).wh with request := some (.ping { id := 1 }) }
    rh :=
      { (raw .accepts [] .eof).rh with
        request := true
        source :=
          { bytes := [0x80#8, 0x03#8, 0x00#8, 0x06#8, 0x00#8, 0x00#8, 0x00#8, 0x04#8, 0x00#8, 0x00#8, 0x00#8, 0x01#8],
            ending := .eof } } }

theorem witness_ReleaseEndsTheBlock :
    (busy.life = .live ∧ (busy.wh.request ≠ none ∨ busy.rh.request = true)) ∧
    (broken.life = .live ∧ broken.wh.request = none ∧ broken.rh.request = false) ∧
    (releaseBlock State.reset).life = .released := by decide

theorem witness_OverlappingRequestsAreRefused :
    busy.wh.request ≠ none ∧ busy.rh.request = true ∧ State.reset.wh.request = none ∧ State.reset.rh.request = false := by
  decide

theorem witness_DiscardConsumesSourceBytes :
    (raw .accepts [0xDE#8, 0xAD#8] .eof).rh.request = false ∧ 2 ≤ (raw .accepts [0xDE#8, 0xAD#8] .eof).rh.source.bytes.length := by
  decide

/-- A write that returns OK, one whose sink fails, a read that returns OK and one that breaks. -/
theorem witness_HalvesBreakExactlyInTheRowsOfR330 :
    (∃ t r, exec (.ping (.write { id := 1 })) (raw .accepts [] .eof) = .next t ∧
      t.wh.responses = (raw .accepts [] .eof).wh.responses ++ [r] ∧ t.wh.run = .ready) ∧
    (∃ t r, exec (.ping (.write { id := 1 })) (raw (.failsAfter 11 7) [] .eof) = .next t ∧
      t.wh.responses = (raw (.failsAfter 11 7) [] .eof).wh.responses ++ [r] ∧ t.wh.run = .broken) ∧
    (∃ t r, exec (.ping (.read ⟨3, 0, 4⟩)) busy = .next t ∧ t.rh.responses = busy.rh.responses ++ [r] ∧ t.rh.run = .ready) ∧
    (∃ t r, exec (.ping (.read ⟨3, 0, 4⟩)) (raw .accepts hdr .eof) = .next t ∧
      t.rh.responses = (raw .accepts hdr .eof).rh.responses ++ [r] ∧ t.rh.run = .broken) :=
  ⟨⟨_, _, rfl, rfl, rfl⟩, ⟨_, _, rfl, rfl, rfl⟩, ⟨_, _, rfl, rfl, rfl⟩, ⟨_, _, rfl, rfl, rfl⟩⟩

theorem witness_WaitingChangesNothing :
    (∃ t, exec (.ping (.write { id := 1 })) (raw (.silentAfter 11) [] .eof) = .next t ∧
      t.wh.responses = (raw (.silentAfter 11) [] .eof).wh.responses) ∧
    (∃ t, exec (.ping (.read ⟨3, 0, 4⟩)) (raw .accepts hdr .silent) = .next t ∧
      t.rh.responses = (raw .accepts hdr .silent).rh.responses) ∧
    ((raw (.silentAfter 15) [] .eof).canWrite ∧ (⟨{}, 0, 0, 0⟩ : GoAwayCmd).wellFormed = true ∧
      (raw (.silentAfter 15) [] .eof).wh.sink.port = .silentAfter 15 ∧ 15 < 16) ∧
    ((raw .accepts (List.replicate 7 0x80#8) .silent).canRead ∧
      (raw .accepts (List.replicate 7 0x80#8) .silent).rh.source.bytes.length < 8 ∧
      (raw .accepts (List.replicate 7 0x80#8) .silent).rh.source.ending = .silent) ∧
    (∃ t, exec (.ping (.write { id := 1 })) ((raw (.silentAfter 12) [] .eof).withSinkPort .accepts) = .next t ∧
      t.wh.sink.accepted.length = 12) ∧
    (∃ t, exec (.ping (.read ⟨3, 0, 4⟩)) ((raw .accepts hdr .silent).withSourceEnd (.error 7)) = .next t ∧
      t.rh.responses = [⟨.ioError (.transport 7), 0, none, []⟩]) ∧
    ∃ t, exec (.unknownControlType (.read ⟨3, 5, 0, 4⟩)) ((raw .accepts hdr .silent).withSourceEnd (.error 7)) = .next t ∧
      t.rh.responses = [⟨.invalidControlFrame, 0, none, []⟩] :=
  ⟨⟨_, rfl, rfl⟩, ⟨_, rfl, rfl⟩, by decide, by decide, ⟨_, rfl, rfl⟩, ⟨_, rfl, rfl⟩, _, rfl, rfl⟩

theorem witness_ErrorsEmitNothing :
    (∃ t, exec (.ping (.write { id := 0 })) (raw .accepts [] .eof) = .next t ∧
      t.wh.responses = (raw .accepts [] .eof).wh.responses ++ [⟨.zeroStreamId, 0⟩] ∧ (raw .accepts [] .eof).wh.scratch = []) ∧
    (∃ t, exec (.ping (.write { id := 1 })) (raw .accepts [] .eof) = .next t ∧
      t.wh.responses = (raw .accepts [] .eof).wh.responses ++ [⟨.ok, 0⟩] ∧ (raw .accepts [] .eof).wh.scratch = []) :=
  ⟨⟨_, rfl, rfl, rfl⟩, ⟨_, rfl, rfl, rfl⟩⟩

theorem witness_WriteFrameLeavesTheRest :
    (Instr.ping (.write { id := 1 })).isRead = false ∧ headerBearing (.ping (.write { id := 1 })) = false ∧
    (∃ t, exec (.ping (.write { id := 1 })) busy = .next t) ∧
    (headerBearing (.headers (.write { streamId := 1 })) = true ∧ busy.cfg.nocomp = true ∧ busy.wh.scratch = [] ∧
      ∃ t, exec (.headers (.write { streamId := 1 })) busy = .next t) :=
  ⟨rfl, rfl, ⟨_, rfl⟩, rfl, rfl, rfl, _, rfl⟩

theorem witness_ReadFrameLeavesTheRest :
    (Instr.ping (.read ⟨3, 0, 4⟩)).isRead = true ∧ headerBearing (.ping (.read ⟨3, 0, 4⟩)) = false ∧
    (∃ t, exec (.ping (.read ⟨3, 0, 4⟩)) busy = .next t) ∧
    (headerBearing (.headers (.read ⟨3, 0, 4⟩)) = true ∧ busy.cfg.nocomp = true ∧
      ∃ t, exec (.headers (.read ⟨3, 0, 4⟩)) busy = .next t) :=
  ⟨rfl, rfl, ⟨_, rfl⟩, rfl, rfl, _, rfl⟩

/-! The step. -/

/-- A READ_FRAME that waits for the source inside a Ping, beside a WRITE_FRAME that waits for the sink. -/
def waiting : State :=
  { busy with
    wh := { busy.wh with sink := { accepted := [], port := .silentAfter 11 } }
    rh := { busy.rh with source := { bytes := hdr ++ [0x00#8], ending := .silent } } }

theorem witness_StepRunsTheDecodedInstruction :
    (busy.rh.request = true ∧ decode busy.rh.source.bytes = .ok (.ping (.read ⟨3, 0, 4⟩), be32 1)) ∧
    ({ busy with turns := [.half .read] }.turns = .half .read :: []) ∧
    (busy.turns = [] ∧ ∃ t, exec (.ping (.read ⟨3, 0, 4⟩)) busy = .next t ∧ t.rh.request = false) ∧
    (waiting.turns = [] ∧ decode waiting.rh.source.bytes = .ok (.synReply (.read ⟨3, 0, 8⟩), [0x00#8]) ∧
      ∃ t, exec (.synReply (.read ⟨3, 0, 8⟩)) waiting = .next t ∧ t.rh.request = true) ∧
    (exec (.ping (.read ⟨3, 0, 4⟩)) { busy with rh := { busy.rh with run := .broken } } = .fault (.brokenHalf .read)) ∧
    (exec (.ping (.read ⟨3, 0, 4⟩)) { busy with life := .released } = .refused .released) :=
  ⟨⟨rfl, rfl⟩, rfl, ⟨rfl, _, rfl, rfl⟩, ⟨rfl, rfl, _, rfl, rfl⟩, rfl, rfl⟩

theorem witness_StepRunsTheCommand :
    (busy.wh.request = some (.ping { id := 1 })) ∧ ({ busy with turns := [.half .write] }.turns = .half .write :: []) ∧
    (let s := { busy with rh := { busy.rh with request := false } };
      s.turns = [] ∧ s.rh.request = false ∧ ∃ t, exec (.ping (.write { id := 1 })) s = .next t ∧ t.wh.request = none) ∧
    (let s := { waiting with rh := { busy.rh with request := false } };
      s.turns = [] ∧ s.rh.request = false ∧ ∃ t, exec (.ping (.write { id := 1 })) s = .next t ∧ t.wh.request ≠ none) ∧
    (exec (.ping (.write { id := 1 })) { busy with wh := { busy.wh with run := .broken } } = .fault (.brokenHalf .write)) ∧
    (exec (.ping (.write { id := 1 })) { busy with life := .released } = .refused .released) :=
  ⟨rfl, rfl, ⟨rfl, rfl, _, rfl, rfl⟩, ⟨rfl, rfl, _, rfl, by decide⟩, rfl, rfl⟩

theorem witness_PlacedWordIsRunNext :
    decodeTableWord 64 0x80000006 = some (.ping (.read ⟨0, 0, 0⟩)) ∧
    ∃ t, exec (.ping (.read ⟨0, 0, 0⟩)) (State.reset.withFetchWord 64 0x80000006) = .next t ∧ t.rh.request = false :=
  ⟨rfl, _, rfl, rfl⟩

theorem witness_AnEndedRunStaysAsItIs :
    (State.reset.wh.request = none ∧ State.reset.rh.request = false ∧ State.reset.host = [] ∧ State.reset.turns = []) ∧
    ({ State.reset with turns := [.host, .half .read], host := [.sourceSupplies [0x80#8] .eof] } : State).settled ∧
    (run 2 { broken with host := [.readFrame] }).2 = some (.fault (.brokenHalf .read)) ∧
    (run 3 { State.reset with host := [.release, .readFrame] }).2 = some (.refusal .released) :=
  ⟨by decide, by decide, rfl, rfl⟩

theorem witness_OnlyResetChangesConfigOrRevives :
    (∃ t, step busy = .next t) ∧
    (∃ t, step { broken with host := [.reset true true .accepts { bytes := [], ending := .eof }] } = .next t ∧
      t.wh.run = .ready) :=
  ⟨⟨_, rfl⟩, _, rfl, rfl⟩

/-- A state that meets the invariant with operations in progress, and its step. -/
theorem witness_StepKeepsTheInvariant : busy.Inv ∧ ∃ t, step busy = .next t ∧ t ≠ busy := by
  refine ⟨⟨rfl, fun _ => rfl, fun _ => ⟨[], rfl, by simp⟩, fun _ => by decide, fun h => absurd rfl h, fun _ => rfl,
    fun _ => rfl, fun r hr => by cases hr⟩, _, rfl, fun h => ?_⟩
  have := congrArg (fun s => s.rh.request) h
  cases this

theorem witness_HalvesCommute :
    (Instr.ping (.write { id := 1 })).isRead = false ∧ (Instr.ping (.read ⟨3, 0, 4⟩)).isRead = true ∧
    (∃ t, exec (.ping (.write { id := 1 })) busy = .next t) ∧ (∃ t, exec (.ping (.read ⟨3, 0, 4⟩)) busy = .next t) :=
  ⟨rfl, rfl, ⟨_, rfl⟩, _, rfl⟩

theorem witness_HalvesDoNotSeeEachOther :
    ((Instr.ping (.read ⟨3, 0, 4⟩)).isRead = true ∧ ∃ t, exec (.ping (.read ⟨3, 0, 4⟩)) busy = .next t) ∧
    ((Instr.ping (.write { id := 1 })).isRead = false ∧ ∃ t, exec (.ping (.write { id := 1 })) busy = .next t) :=
  ⟨⟨rfl, _, rfl⟩, rfl, _, rfl⟩

/-! Round trips. -/

theorem witness_FixedFramesRoundTrip :
    (∀ bs ∈ [encode (.rstStream (.write { streamId := 0xFFFFFFFF, status := 1 })),
        encode (.settings (.write { entries := [{ flag := 255, id := 0xFFFFFF, value := 1 }] })),
        encode (.ping (.write { id := 1 })), encode (.goAway (.write {})), encode (.windowUpdate (.write { streamId := 1 })),
        encode (.data (.write { streamId := 0x7FFFFFFF, data := [0x61#8] }))],
      (raw .accepts (bs ++ [0x00#8]) .eof).canRead ∧ (raw .accepts (bs ++ [0x00#8]) .eof).rh.source.bytes = bs ++ [0x00#8]) ∧
    ((⟨{}, 0, 0xFFFFFFFF, 1⟩ : RstStreamCmd).wellFormed = true ∧ 0xFFFFFFFF % 2 ^ 31 ≠ 0) ∧
    ((⟨{}, 0, [{ flag := 255, id := 0xFFFFFF, value := 1 }]⟩ : SettingsCmd).wellFormed = true ∧ 1 ≤ 2097151) ∧
    ((⟨{}, 0, 1⟩ : PingCmd).wellFormed = true ∧ 1 ≠ 0) ∧ (⟨{}, 0, 0, 0⟩ : GoAwayCmd).wellFormed = true ∧
    ((⟨{}, 0, 1, 0⟩ : WindowUpdateCmd).wellFormed = true ∧ 1 % 2 ^ 31 ≠ 0) ∧
    ((⟨0x7FFFFFFF, 0, [0x61#8]⟩ : DataCmd).wellFormed = true ∧ 0 < 0x7FFFFFFF ∧ 0x7FFFFFFF < 2 ^ 31 ∧
      ([0x61#8] : Bytes).length ≤ 0xFFFFFF) := by decide

theorem witness_RawHeaderFramesRoundTrip :
    (∀ bs ∈ [encode (.synStream (.write { streamId := 1, headers := someHeaders })),
        encode (.synReply (.write { streamId := 1, headers := someHeaders })),
        encode (.headers (.write { streamId := 1, headers := someHeaders }))],
      (raw .accepts (bs ++ [0x00#8]) .eof).canRead ∧ (raw .accepts (bs ++ [0x00#8]) .eof).cfg.nocomp = true ∧
      (raw .accepts (bs ++ [0x00#8]) .eof).rh.source.bytes = bs ++ [0x00#8]) ∧
    ((⟨{}, 0, 1, 0, 7, 0, someHeaders⟩ : SynStreamCmd).wellFormed = true ∧
      (⟨{}, 0, 1, someHeaders⟩ : SynReplyCmd).wellFormed = true ∧ (⟨{}, 0, 1, someHeaders⟩ : HeadersCmd).wellFormed = true) ∧
    (1 % 2 ^ 31 ≠ 0 ∧ canonicalHeaders someHeaders = true) ∧
    (∀ e ∈ someHeaders, e.name ∉ BannedSet.request.names ∧ e.name ∉ BannedSet.response.names ∧
      e.name ∉ (headersBannedSet .convention (BitVec.ofNat 31 1)).names) := by decide

/-- A compressed-mode configuration with the small engine's dictionary. -/
def toyCfg : Cfg := { Cfg.atReset false with dict := [0x00#8] }

theorem witness_CompressedFramesRoundTripInStep :
    toyCfg.nocomp = false ∧ toy.inStep ⟨0⟩ ⟨0⟩ ∧
    (let wh := { State.reset.wh with zc := some ⟨0⟩ };
      wh.zc = some ⟨0⟩ ∧ wh.scratch = [] ∧ wh.sink.port = .accepts) ∧
    ({ State.reset.rh with zd := some ⟨0⟩ }.zd = some ⟨0⟩) ∧
    (State.reset.rh.zd = none ∧ (⟨0⟩ : DState) = toy.inflateInit toyCfg.dict) ∧
    ((⟨{}, 0, 1, 0, 7, 0, someHeaders⟩ : SynStreamCmd).wellFormed = true ∧
      (⟨{}, 0, 1, someHeaders⟩ : SynReplyCmd).wellFormed = true ∧ (⟨{}, 0, 1, someHeaders⟩ : HeadersCmd).wellFormed = true) ∧
    (1 % 2 ^ 31 ≠ 0 ∧ canonicalHeaders someHeaders = true) ∧
    (∀ e ∈ someHeaders, e.name ∉ BannedSet.request.names ∧ e.name ∉ BannedSet.response.names ∧
      e.name ∉ (headersBannedSet toyCfg.headersParity (BitVec.ofNat 31 1)).names) ∧
    10 + (toy.deflateBlock ⟨0⟩ (hbSerialize someHeaders)).2.length ≤ 0xFFFFFF :=
  ⟨rfl, toy_inStep _, ⟨rfl, rfl, rfl⟩, rfl, ⟨rfl, rfl⟩, by decide, by decide, by decide, by decide⟩

theorem witness_TruncatedCompressedBlocksAreRejected :
    toyCfg.nocomp = false ∧ toy.truncates ⟨0⟩ ⟨0⟩ (hbSerialize []) ∧ headerListWellFormed [] = true ∧
    (State.reset.rh.zd = none ∧ (⟨0⟩ : DState) = toy.inflateInit toyCfg.dict) ∧
    8 < (toy.deflateBlock ⟨0⟩ (hbSerialize [])).2.length ∧
    headerRule toy toyCfg ⟨3, 0, 12⟩ (rdSynReply toy toyCfg ⟨3, 0, 12⟩) 4 ∧
    headerRule toy toyCfg ⟨3, 0, 12⟩ (rdHeaders toy toyCfg ⟨3, 0, 12⟩) 4 ∧
    headerRule toy toyCfg ⟨3, 0, 18⟩ (rdSynStream toy toyCfg ⟨3, 0, 18⟩) 10 ∧
    (⟨3, 0, 12⟩ : ReadHeader).length.toNat = 4 + 8 ∧ (⟨3, 0, 18⟩ : ReadHeader).length.toNat = 10 + 8 ∧ hdr.length = 8 ∧
    (be32 1).length = 4 ∧ (be32 1 ++ be32 0 ++ [0x00#8, 0x00#8]).length = 10 ∧
    (let bs := hdr ++ be32 1 ++ (toy.deflateBlock ⟨0⟩ (hbSerialize [])).2.take 8 ++ [0xFF#8];
      (compressed bs .eof).rh.source.bytes = bs) :=
  ⟨rfl, toy_truncates _ _, rfl, ⟨rfl, rfl⟩, by decide, .inr (.inl ⟨rfl, rfl⟩), .inr (.inr ⟨rfl, rfl⟩), .inl ⟨rfl, rfl⟩,
    rfl, rfl, rfl, rfl, rfl, rfl⟩

theorem witness_AnotherDictionaryIsRejected :
    let cfg := { toyCfg with dict := [0x01#8, 0x00#8] }
    cfg.nocomp = false ∧ toy.needsDictionary [0x00#8] 9 ∧ cfg.dict ≠ [0x00#8] ∧ State.reset.rh.zd = none ∧
    headerRule toy cfg ⟨3, 0, 13⟩ (rdSynReply toy cfg ⟨3, 0, 13⟩) 4 ∧
    (⟨3, 0, 13⟩ : ReadHeader).length.toNat = 4 + (toy.deflateBlock (toy.deflateInit [0x00#8] 9) (hbSerialize [])).2.length ∧
    hdr.length = 8 ∧ (be32 1).length = 4 ∧
    (let bs := hdr ++ be32 1 ++ (toy.deflateBlock (toy.deflateInit [0x00#8] 9) (hbSerialize [])).2 ++ [0xFF#8];
      (compressed bs .eof).rh.source.bytes = bs) :=
  ⟨rfl, toy_needsDictionary _, by decide, rfl, .inr (.inl ⟨rfl, rfl⟩), rfl, rfl, rfl, rfl⟩

/-- Every property of R171 holds of the small engine, and a SynReply is written with it after a first block. -/
theorem witness_CompressedBlocksAreNeverEmpty :
    toyCfg.nocomp = false ∧ (toy.nonEmpty [0x00#8] 9 ∧ toy.truncatesAll [0x00#8] 9 ∧ toy.roundTrip [0x00#8] 9) ∧
    (let wh := { State.reset.wh with zc := some ⟨0⟩ };
      wh.zc = some (toy.deflated (toy.deflateInit [0x00#8] 9) [[0x61#8]]) ∧ wh.scratch = [] ∧
      (∃ wh', wrSynStream toy toyCfg { streamId := 1 } wh = some wh' ∧ wh'.responses = wh.responses ++ [⟨.ok, 0⟩]) ∧
      (∃ wh', wrSynReply toy toyCfg { streamId := 1 } wh = some wh' ∧ wh'.responses = wh.responses ++ [⟨.ok, 0⟩]) ∧
      ∃ wh', wrHeaders toy toyCfg { streamId := 1 } wh = some wh' ∧ wh'.responses = wh.responses ++ [⟨.ok, 0⟩]) :=
  ⟨rfl, ⟨toy_nonEmpty _, toy_truncatesAll _, toy_inStep _⟩, rfl, rfl, ⟨_, rfl, rfl⟩, ⟨_, rfl, rfl⟩, _, rfl, rfl⟩

end Sys2Proof.Tests
end

/-! # The state family: RESET, the invariant, and what a step can do -/

namespace Sys2Proof.Machine

/-! ## What a step can do, said once -/

/-- The rule WRITE_FRAME runs for a command form; a header form has none (R120). -/
def writeRule (eng : Engine) (cfg : Cfg) : Instr → WriteHalf → Option WriteHalf
  | .synStream (.write f) => wrSynStream eng cfg f
  | .synReply (.write f) => wrSynReply eng cfg f
  | .rstStream (.write f) => wrRstStream f
  | .settings (.write f) => wrSettings f
  | .ping (.write f) => wrPing f
  | .goAway (.write f) => wrGoAway f
  | .headers (.write f) => wrHeaders eng cfg f
  | .windowUpdate (.write f) => wrWindowUpdate f
  | .data (.write f) => wrData cfg f
  | .unknownControlType (.write f) => wrUnknown f
  | _ => fun _ => none

/-- The rule READ_FRAME runs for a header form; a command form has none (R130). -/
def readRule (eng : Engine) (cfg : Cfg) : Instr → ReadHalf → Option ReadHalf
  | .synStream (.read h) => rdSynStream eng cfg h
  | .synReply (.read h) => rdSynReply eng cfg h
  | .rstStream (.read h) => rdRstStream h
  | .settings (.read h) => rdSettings h
  | .ping (.read h) => rdPing h
  | .goAway (.read h) => rdGoAway h
  | .headers (.read h) => rdHeaders eng cfg h
  | .windowUpdate (.read h) => rdWindowUpdate h
  | .data (.read h) => rdData h
  | .unknownControlType (.read h) => rdUnknown h
  | _ => fun _ => none

/-- A header form is executed by READ_FRAME, a command form by WRITE_FRAME, each with its rule. -/
theorem exec_eq (i : Instr) (s : State) :
    exec i s =
      if i.isRead then readFrame (readRule Config.engine s.cfg i) s
      else writeFrame i.wellFormed (writeRule Config.engine s.cfg i) s := by
  cases i <;> rename_i form <;> cases form <;> rfl

/-- What one operation of a half leaves: it waits, or its rule ran on its own half, live and READY, and the rest of the state
is as it was. -/
inductive OperationLeaves (s : State) : State → Prop
  | waits : OperationLeaves s s
  | wrote (i : Instr) (wh : WriteHalf) (hs : s.canWrite) (h : writeRule Config.engine s.cfg i s.wh = some wh) :
      OperationLeaves s { s with wh := wh }
  | read (i : Instr) (rh : ReadHalf) (hs : s.canRead)
      (h : readHeader s.rh (readRule Config.engine s.cfg i) = some rh) : OperationLeaves s { s with rh := rh }
  | readNoHeader (rh : ReadHalf) (hs : s.canRead) (h : readHeader s.rh (fun _ => none) = some rh) :
      OperationLeaves s { s with rh := rh }

theorem exec_next {i : Instr} {s t : State} (h : exec i s = .next t) : OperationLeaves s t := by
  rw [exec_eq] at h
  split at h
  · obtain ⟨hs, ⟨rh, hr, rfl⟩ | ⟨_, rfl⟩⟩ := readFrame_next h
    · exact .read i rh hs hr
    · exact .waits
  · obtain ⟨hs, _, ⟨wh, hw, rfl⟩ | ⟨_, rfl⟩⟩ := writeFrame_next h
    · exact .wrote i wh hs hw
    · exact .waits

theorem readStep_next {s t : State} (h : readStep s = .next t) : OperationLeaves s t := by
  unfold readStep at h
  split at h
  · exact exec_next h
  · obtain ⟨hs, ⟨rh, hr, rfl⟩ | ⟨_, rfl⟩⟩ := readFrame_next h
    · exact .readNoHeader rh hs hr
    · exact .waits

/-- What a step leaves: `s` has had its turn taken off; one half has operated, or the outside action at the head is done. -/
def Moves (s t : State) : Prop :=
  OperationLeaves s t ∨ ∃ a rest, s.host = a :: rest ∧ hostAction a rest s = .next t

theorem hostStep_next {s t : State} (h : hostStep s = .next t) : Moves s t := by
  unfold hostStep at h
  split at h
  · cases h; exact .inl .waits
  · exact .inr ⟨_, _, ‹_›, h⟩

theorem agentStep_next {a : Agent} {s t : State} (h : agentStep a s = .next t) : Moves s t := by
  unfold agentStep at h
  split at h
  · split at h
    · exact .inl (readStep_next h)
    · cases h; exact .inl .waits
  · split at h
    · exact .inl (exec_next h)
    · cases h; exact .inl .waits
  · exact hostStep_next h

theorem writeOrHostStep_next {s t : State} (h : writeOrHostStep s = .next t) : Moves s t := by
  unfold writeOrHostStep at h
  split at h
  · exact hostStep_next h
  · split at h
    case h_1 hw =>
      split at h
      · exact hostStep_next h
      · cases h; exact .inl (exec_next hw)
    all_goals cases h

theorem defaultStep_next {s t : State} (h : defaultStep s = .next t) : Moves s t := by
  unfold defaultStep at h
  split at h
  · split at h
    case h_1 hr =>
      split at h
      · exact writeOrHostStep_next h
      · cases h; exact .inl (readStep_next hr)
    all_goals cases h
  · exact writeOrHostStep_next h

/-- Every step is one move, of the state without the turn it takes. -/
theorem step_next {s t : State} (h : step s = .next t) : ∃ turns, Moves { s with turns := turns } t := by
  unfold step at h
  split at h
  · exact ⟨_, agentStep_next h⟩
  · exact ⟨s.turns, defaultStep_next h⟩

/-- A DISCARD moves the source and its position, nothing else (R350). -/
theorem discardBytes_some {n : Nat} {rh rh' : ReadHalf} (h : discardBytes n rh = some rh') :
    ∃ rest, rh' = rh.consumeTo rest := by
  unfold discardBytes at h
  obtain ⟨_, rest, _, hs⟩ | ⟨_, ⟨_, hs⟩ | ⟨_, _, hs⟩ | ⟨_, hs⟩⟩ := srcRead_cases (getBytes n) rh <;> rw [hs] at h <;> cases h
  · exact ⟨rest, rfl⟩
  · exact ⟨[], rfl⟩
  · exact ⟨[], rfl⟩

/-- What an outside action can do: construct the block, change the write half's port registers, change the read half's port
registers, release a live block, or wait (R350, R352). -/
theorem hostAction_next {a : HostAction} {rest : List HostAction} {s t : State} (h : hostAction a rest s = .next t) :
    (∃ nocomp ok port source, a = .reset nocomp ok port source ∧
      t = { construct nocomp ok port source s with host := rest }) ∨
    (∃ request port, t =
      { s with wh := { s.wh with request := request, sink := { s.wh.sink with port := port } }, host := rest }) ∨
    (∃ srcPos request source, t =
      { s with rh := { s.rh with srcPos := srcPos, request := request, source := source }, host := rest }) ∨
    (s.life = .live ∧ t = { releaseBlock s with host := rest }) ∨
    t = s := by
  cases a with
  | reset nocomp ok port source =>
    simp only [hostAction] at h
    split at h <;> cases h
    exact .inl ⟨_, _, _, _, rfl, rfl⟩
  | writeFrame f =>
    simp only [hostAction] at h
    split at h <;> cases h
    exact .inr (.inl ⟨_, _, rfl⟩)
  | readFrame =>
    simp only [hostAction] at h
    split at h <;> cases h
    exact .inr (.inr (.inl ⟨_, _, _, rfl⟩))
  | discard n =>
    simp only [hostAction] at h
    split at h
    · cases h
    · split at h <;> cases h
      · obtain ⟨r, rfl⟩ := discardBytes_some ‹_›
        exact .inr (.inr (.inl ⟨_, _, _, rfl⟩))
      · exact .inr (.inr (.inr (.inr rfl)))
  | release =>
    simp only [hostAction] at h
    split at h
    · cases h
    · cases h
    · split at h <;> cases h
      exact .inr (.inr (.inr (.inl ⟨‹_›, rfl⟩)))
  | sourceSupplies bs ending =>
    cases h
    exact .inr (.inr (.inl ⟨_, _, _, rfl⟩))
  | sinkBecomes port =>
    cases h
    exact .inr (.inl ⟨_, _, rfl⟩)

/-! ## Only RESET writes CFG or revives a half -/

/-- An operation leaves CFG alone, and it runs on a READY half only. -/
theorem OperationLeaves.keeps_cfg_and_broken {s t : State} (h : OperationLeaves s t) :
    t.cfg = s.cfg ∧ (s.wh.run = .broken → t.wh.run = .broken) ∧ (s.rh.run = .broken → t.rh.run = .broken) := by
  cases h with
  | waits => exact ⟨rfl, id, id⟩
  | wrote i wh hs _ => exact ⟨rfl, fun hb => by simp [hs.2] at hb, id⟩
  | read i rh hs _ => exact ⟨rfl, id, fun hb => by simp [hs.2] at hb⟩
  | readNoHeader rh hs _ => exact ⟨rfl, id, fun hb => by simp [hs.2] at hb⟩

/-- Settles O50: an operation runs on a READY half only, and of the outside actions only RESET touches CFG or a run state. -/
theorem onlyResetChangesConfigOrRevives : Obligations.OnlyResetChangesConfigOrRevives := by
  unfold Obligations.OnlyResetChangesConfigOrRevives
  intro s t h
  obtain ⟨turns, hop | ⟨a, rest, hhost, hact⟩⟩ := step_next h
  · exact .inl hop.keeps_cfg_and_broken
  · obtain ⟨nocomp, ok, port, source, rfl, rfl⟩ | ⟨_, _, rfl⟩ | ⟨_, _, _, rfl⟩ | ⟨_, rfl⟩ | rfl := hostAction_next hact
    · exact .inr ⟨nocomp, ok, port, source, rest, hhost, rfl⟩
    all_goals exact .inl ⟨rfl, id, id⟩

end Sys2Proof.Machine

namespace Sys2Proof.Machine

/-! ## The invariant, half by half -/

/-- What a live block's write half keeps between operations (R21, R22, R24, R59). -/
structure WriteHalf.Inv (cfg : Cfg) (wh : WriteHalf) : Prop where
  sinkPos : wh.sinkPos = wh.sink.accepted.length
  scratch : wh.run = .ready → wh.scratch = []
  frames : wh.run = .ready → wholeFrames wh.sink.accepted
  compressor : wh.zc.isSome ↔ cfg.nocomp = false

/-- What the read half keeps between operations (R30, R31, R103, R321). -/
structure ReadHalf.Inv (cfg : Cfg) (rh : ReadHalf) : Prop where
  decompressor : cfg.nocomp = true → rh.zd = none
  fence : rh.run = .ready → rh.fence = 0
  results : ∀ r ∈ rh.responses, r.valid cfg.headersParity

/-- The invariant of a live block is that of its halves. -/
theorem State.inv_iff_of_live {s : State} (hl : s.life = .live) : s.Inv ↔ s.wh.Inv s.cfg ∧ s.rh.Inv s.cfg where
  mp h := ⟨⟨h.sinkPos, h.scratch, h.frames, h.compressor hl⟩, h.decompressor, h.fence, h.results⟩
  mpr h := by
    obtain ⟨⟨hpos, hscr, hfr, hz⟩, hd, hfe, hr⟩ := h
    exact ⟨hpos, hscr, hfr, fun _ => hz, fun hn => absurd hl hn, hd, hfe, hr⟩

/-! ## The write half -/

theorem wholeFrames_nil : wholeFrames [] := ⟨[], rfl, by simp⟩

/-- One more frame after whole frames (R59). -/
theorem wholeFrames_append {bs f : Bytes} (hbs : wholeFrames bs) (hf : emittedControl f ∨ emittedData f) :
    wholeFrames (bs ++ f) := by
  obtain ⟨fs, rfl, hfs⟩ := hbs
  refine ⟨fs ++ [f], by simp, fun g hg => ?_⟩
  rcases List.mem_append.mp hg with hg | hg
  · exact hfs g hg
  · exact List.mem_singleton.mp hg ▸ hf

/-- EMIT_CTRL's frame is one the invariant speaks of (R105, R122, R123). -/
theorem emittedControl_controlFrame (k : ControlKind) (flags : BitVec 8) {payload : Bytes}
    (hl : payload.length ≤ maxLength) : emittedControl (controlFrame k flags payload) :=
  ⟨k, fillFlags k flags, payload, hl, by rintro (rfl | rfl | rfl) <;> rfl, rfl⟩

/-- The frame of a Data command that passed the checks of R300 is one the invariant speaks of (R125). -/
theorem emittedData_dataFrame {f : DataCmd} (hc : controlBit (word f.streamId) = false)
    (hl : f.data.length ≤ 0xFFFFFF) (h0 : word f.streamId ≠ 0) : emittedData (dataFrame f) := by
  have hw := dataWord_fields _ hc
  refine ⟨get31 (word f.streamId), byte f.flags, f.data, hl, fun hz => h0 ?_, by rw [hw]; rfl⟩
  rw [← hw, hz]; rfl

namespace WriteHalf.Inv

variable {cfg : Cfg} {wh wh' : WriteHalf}

theorem finish (hi : wh.Inv cfg) (st : Status) (sid : StreamId) : (wh.finish st sid).Inv cfg :=
  ⟨hi.sinkPos, hi.scratch, hi.frames, hi.compressor⟩

theorem breakHalf (hi : wh.Inv cfg) : wh.breakHalf.Inv cfg :=
  ⟨hi.sinkPos, fun h => by simp at h, fun h => by simp at h, hi.compressor⟩

theorem accept (hi : wh.Inv cfg) {bs : Bytes} (hf : emittedControl bs ∨ emittedData bs) (port : SinkPort) :
    (wh.accept bs port).Inv cfg :=
  ⟨by simp [hi.sinkPos], hi.scratch, fun h => wholeFrames_append (hi.frames h) hf, hi.compressor⟩

/-- A BROKEN half may have emitted a part of a frame (R330 row W4). -/
theorem accept_of_broken (hi : wh.Inv cfg) (hb : wh.run = .broken) (bs : Bytes) (port : SinkPort) :
    (wh.accept bs port).Inv cfg :=
  ⟨by simp [hi.sinkPos], hi.scratch, fun h => by simp [hb] at h, hi.compressor⟩

/-- Emission keeps the invariant when it holds of the half with `after` already done: the whole frame is accepted, or the half
breaks (R123, R125). -/
theorem emit {bs : Bytes} {after : WriteHalf → WriteHalf} (h : Machine.emit bs wh after = some wh')
    (hf : emittedControl bs ∨ emittedData bs) (hi : (after wh).Inv cfg)
    (hafter : ∀ bs port, after (wh.accept bs port) = (after wh).accept bs port)
    (hbreak : (after wh).breakHalf = wh.breakHalf) : wh'.Inv cfg := by
  obtain rfl | ⟨room, e, _, _, rfl⟩ := emit_cases h
  · rw [hafter]
    exact (hi.accept hf _).finish _ _
  · have hpart := (hbreak ▸ hi.breakHalf).accept_of_broken rfl (bs.take room) (.failsAfter 0 e)
    exact hpart.finish _ _

/-- EMIT_CTRL outside a header-bearing encode keeps the invariant (R123, R124). -/
theorem emitCtrl {k : ControlKind} {flags : BitVec 8} {payload : Bytes} {sid : StreamId} (hi : wh.Inv cfg)
    (h : Machine.emitCtrl k flags payload sid wh id = some wh') : wh'.Inv cfg := by
  unfold Machine.emitCtrl at h
  split at h
  · cases h; exact hi.finish _ _
  · exact emit h (.inl (emittedControl_controlFrame k flags (by omega))) hi (fun _ _ => rfl) rfl

/-- HB_ENCODE fills the scratch buffer and creates no engine in raw mode (R172, R173). -/
theorem scratchClear_hbEncode (hi : wh.Inv cfg) (eng : Engine) (hl : HeaderList) :
    (hbEncode eng cfg hl wh).scratchClear.Inv cfg := by
  cases hn : cfg.nocomp with
  | true =>
    rw [hbEncode_raw hn]
    exact ⟨hi.sinkPos, fun _ => rfl, hi.frames, hi.compressor⟩
  | false =>
    obtain ⟨cs, hcs⟩ := Option.isSome_iff_exists.mp (hi.compressor.mpr hn)
    rw [hbEncode_compressed hn hcs]
    exact ⟨hi.sinkPos, fun _ => rfl, hi.frames, by simp [hn]⟩

/-- A header-bearing encode leaves the scratch buffer empty or the half BROKEN (R174, R200). -/
theorem hbWrite {eng : Engine} {k : ControlKind} {fixed : Bytes} {hl : HeaderList} {sid : StreamId} {flags : BitVec 8}
    (hi : wh.Inv cfg) (h : Machine.hbWrite eng cfg k fixed hl sid flags wh = some wh') : wh'.Inv cfg := by
  have hclear := hi.scratchClear_hbEncode eng hl
  obtain ⟨_, ⟨_, rfl⟩ | ⟨_, rfl⟩⟩ | ⟨hlen, h⟩ := hbWrite_cases h
  · exact hclear.finish _ _
  · exact hclear.breakHalf.finish _ _
  · rw [Machine.emitCtrl, if_neg (by omega)] at h
    exact emit h (.inl (emittedControl_controlFrame k flags hlen)) hclear (fun _ _ => rfl) rfl

end WriteHalf.Inv

/-- What a write rule can do: end with a result before any byte is emitted, or emit a control frame, a data frame that passed
the checks of R300, or a frame with a header block. -/
theorem writeRule_cases {eng : Engine} {cfg : Cfg} {i : Instr} {wh wh' : WriteHalf}
    (h : writeRule eng cfg i wh = some wh') :
    (∃ st sid, wh' = wh.finish st sid) ∨
    (∃ k flags payload sid, emitCtrl k flags payload sid wh id = some wh') ∨
    (∃ f : DataCmd, controlBit (word f.streamId) = false ∧ f.data.length ≤ cfg.dataMaxLen.toNat ∧ word f.streamId ≠ 0 ∧
      emit (dataFrame f) wh id = some wh') ∨
    (∃ k fixed hl sid flags, hbWrite eng cfg k fixed hl sid flags wh = some wh') := by
  have ended {st : Status} {sid : StreamId} (h : some (wh.finish st sid) = some wh') :
      ∃ st sid, wh' = wh.finish st sid := ⟨st, sid, (Option.some.inj h).symm⟩
  cases i <;> rename_i form <;> cases form <;>
    simp only [writeRule, wrSynStream, wrSynReply, wrHeaders, wrRstStream, wrSettings, wrPing, wrGoAway, wrWindowUpdate,
      wrData, wrUnknown] at h
  case synStream.write | synReply.write | headers.write =>
    split at h
    · exact .inl (ended h)
    · exact .inr (.inr (.inr ⟨_, _, _, _, _, h⟩))
  case settings.write | ping.write | windowUpdate.write =>
    split at h
    · exact .inl (ended h)
    · exact .inr (.inl ⟨_, _, _, _, h⟩)
  case rstStream.write =>
    split at h
    · exact .inl (ended h)
    · split at h
      · exact .inl (ended h)
      · exact .inr (.inl ⟨_, _, _, _, h⟩)
  case goAway.write => exact .inr (.inl ⟨_, _, _, _, h⟩)
  case data.write f =>
    split at h
    · exact .inl (ended h)
    · split at h
      · exact .inl (ended h)
      · split at h
        · exact .inl (ended h)
        · exact .inr (.inr (.inl ⟨f, by simpa using ‹¬ controlBit _ = true›, by omega, ‹_›, h⟩))
  case unknownControlType.write => exact .inl (ended h)
  all_goals cases h

/-- Every write rule keeps the write half's invariant. -/
theorem writeRule_keeps_inv {eng : Engine} {cfg : Cfg} {i : Instr} {wh wh' : WriteHalf}
    (h : writeRule eng cfg i wh = some wh') (hi : wh.Inv cfg) : wh'.Inv cfg := by
  obtain ⟨st, sid, rfl⟩ | ⟨_, _, _, _, h⟩ | ⟨f, hc, hl, h0, h⟩ | ⟨_, _, _, _, _, h⟩ := writeRule_cases h
  · exact hi.finish st sid
  · exact hi.emitCtrl h
  · have hmax : f.data.length ≤ 0xFFFFFF := by have := cfg.dataMaxLen.isLt; omega
    exact .emit h (.inr (emittedData_dataFrame hc hmax h0)) hi (fun _ _ => rfl) rfl
  · exact hi.hbWrite h

/-! ## The maps a block parses to -/

@[simp] theorem lowerByte_lowerByte (b : Byte) : lowerByte (lowerByte b) = lowerByte b := by
  unfold lowerByte
  split
  · rw [if_neg]
    bv_omega
  · rfl

@[simp] theorem lower_lower (bs : Bytes) : lower (lower bs) = lower bs := by
  simp [lower]

/-- A HeaderMap: names pairwise distinct and lowercase (R150). -/
def IsHeaderMap (m : HeaderMap) : Prop :=
  (m.map HeaderEntry.name).Nodup ∧ ∀ n ∈ m.map HeaderEntry.name, lower n = n

/-- One turn of HB_PARSE's loop keeps the names distinct and lowercase (R154). -/
theorem IsHeaderMap.addEntry {acc : BlockAcc} (h : IsHeaderMap acc.map) (sid : StreamId) (e : Bytes × Bytes) :
    IsHeaderMap (addEntry sid acc e).map := by
  unfold Machine.addEntry
  split
  · simpa only [IsHeaderMap, names_appendValues] using h
  · rename_i hnew
    rw [hasName_iff] at hnew
    refine ⟨?_, fun n hn => ?_⟩
    · simpa [List.nodup_append, h.1] using hnew
    · simp only [List.map_append, List.mem_append, List.map_cons, List.map_nil, List.mem_singleton] at hn
      rcases hn with hn | rfl
      · exact h.2 n hn
      · exact lower_lower _

theorem IsHeaderMap.foldl_addEntry {acc : BlockAcc} (h : IsHeaderMap acc.map) (sid : StreamId)
    (es : List (Bytes × Bytes)) : IsHeaderMap (es.foldl (Machine.addEntry sid) acc).map := by
  induction es generalizing acc with
  | nil => exact h
  | cons e es ih => exact ih (h.addEntry sid e)

/-- HB_PARSE answers a HeaderMap (R150, R154). -/
theorem isHeaderMap_of_hbParse {sid : StreamId} {bs rest : Bytes} {acc : BlockAcc}
    (h : hbParse sid bs = some (acc, rest)) : IsHeaderMap acc.map := by
  unfold hbParse at h
  split at h
  · cases h
  · split at h <;> cases h
    exact IsHeaderMap.foldl_addEntry (acc := ⟨[], []⟩) ⟨List.nodup_nil, by simp⟩ sid _

/-- A HeaderMap that passes BANNED_CHECK is a good one (R162). -/
theorem IsHeaderMap.good {m : HeaderMap} (h : IsHeaderMap m) {set : BannedSet}
    (hb : ¬ (m.any fun e => set.names.contains e.name) = true) : goodMap set m :=
  ⟨h.1, fun e he => ⟨h.2 _ (List.mem_map_of_mem he), fun hn => hb (List.any_eq_true.mpr ⟨e, he, by simpa using hn⟩)⟩⟩

/-! ## The read half -/

theorem RResult.valid_raised {st : Status} (h : st ≠ .ok) (parity : HeadersParity) (sid : StreamId)
    (diag : List Diagnostic) : (RResult.mk st sid none diag).valid parity := h

theorem RResult.valid_returned {parity : HeadersParity} {frame : Frame} (h : frame.valid parity) (diag : List Diagnostic) :
    (RResult.mk .ok 0 (some frame) diag).valid parity := ⟨rfl, rfl, h⟩

/-- The checks after a block let only a valid frame through (R162, R324). -/
theorem headerResult_valid {parity : HeadersParity} {set : BannedSet} {sid : StreamId} {frame : HeaderMap → Frame}
    {acc : BlockAcc} (hm : IsHeaderMap acc.map)
    (hframe : ∀ m, sid ≠ 0 → goodMap set m → (frame m).valid parity) :
    (headerResult set sid frame acc).valid parity := by
  unfold headerResult
  split
  · exact RResult.valid_raised (by simp) _ _ _
  · split
    · exact RResult.valid_raised (by simp) _ _ _
    · exact RResult.valid_returned (hframe _ ‹_› (hm.good ‹_›)) _

namespace ReadHalf.Inv

variable {cfg : Cfg} {rh : ReadHalf}

theorem finish (hi : rh.Inv cfg) {r : RResult} (hr : r.valid cfg.headersParity) : (rh.finish r).Inv cfg := by
  refine ⟨hi.decompressor, hi.fence, fun q hq => ?_⟩
  rcases List.mem_append.mp hq with hq | hq
  · exact hi.results q hq
  · exact List.mem_singleton.mp hq ▸ hr

theorem raise (hi : rh.Inv cfg) {st : Status} (hst : st ≠ .ok) (sid : StreamId) (diag : List Diagnostic) :
    (rh.raise st sid diag).Inv cfg :=
  hi.finish (RResult.valid_raised hst _ _ _)

theorem returnFrame (hi : rh.Inv cfg) {frame : Frame} (hf : frame.valid cfg.headersParity) (diag : List Diagnostic) :
    (rh.returnFrame frame diag).Inv cfg :=
  hi.finish (RResult.valid_returned hf diag)

theorem consumeTo (hi : rh.Inv cfg) (rest : Bytes) : (rh.consumeTo rest).Inv cfg :=
  ⟨hi.decompressor, hi.fence, hi.results⟩

theorem breakHalf (hi : rh.Inv cfg) : rh.breakHalf.Inv cfg :=
  ⟨hi.decompressor, fun h => by simp at h, hi.results⟩

/-- In compressed mode the decompressor may hold any state, and the fence of a BROKEN half is free (R31, R325). -/
theorem of_compressed (hn : cfg.nocomp = false) (hr : rh.run = .ready → rh.fence = 0)
    (hres : ∀ r ∈ rh.responses, r.valid cfg.headersParity) : rh.Inv cfg :=
  ⟨fun h => by simp [hn] at h, hr, hres⟩

end ReadHalf.Inv

/-- A read rule keeps the read half's invariant whatever half it runs on. -/
def KeepsReadInv (cfg : Cfg) (rule : ReadHalf → Option ReadHalf) : Prop :=
  ∀ rh rh', rh.Inv cfg → rule rh = some rh' → rh'.Inv cfg

namespace KeepsReadInv

variable {cfg : Cfg}

theorem noAnswer : KeepsReadInv cfg fun _ => none := fun _ _ _ h => by cases h

/-- A rule that always answers. -/
theorem answer {f : ReadHalf → ReadHalf} (hf : ∀ rh, rh.Inv cfg → (f rh).Inv cfg) :
    KeepsReadInv cfg fun rh => some (f rh) := fun rh _ hi h => Option.some.inj h ▸ hf rh hi

/-- READ keeps the invariant when what follows keeps it for everything the reader can answer (R135). -/
theorem read {α : Type} {p : Bytes → Option (α × Bytes)} {k : α → ReadHalf → Option ReadHalf}
    (hk : ∀ a bs rest, p bs = some (a, rest) → KeepsReadInv cfg (k a)) :
    KeepsReadInv cfg fun rh => Machine.read p rh k := by
  intro rh rh' hi h
  obtain ⟨a, rest, hp, h⟩ | ⟨_, e, rfl⟩ := read_cases h
  · exact hk a _ rest hp _ _ (hi.consumeTo rest) h
  · exact (hi.consumeTo []).breakHalf.raise (by simp) _ _

/-- The header read before a rule (R130). -/
theorem readHeader {rule : ReadHalf → Option ReadHalf} (hr : KeepsReadInv cfg rule) :
    KeepsReadInv cfg fun rh => Machine.readHeader rh rule := by
  intro rh rh' hi h
  obtain ⟨_, _, rest, _, h⟩ | ⟨_, _, rfl⟩ | ⟨_, e, rfl⟩ := readHeader_cases h
  · exact hr _ _ (hi.consumeTo rest) h
  · exact (hi.consumeTo []).raise (by simp) _ _
  · exact (hi.consumeTo []).breakHalf.raise (by simp) _ _

/-- The fenced decode: an error breaks the half, the exact block closes the fence (R177). -/
theorem hbDecodeZ (eng : Engine) (hn : cfg.nocomp = false) (L : Nat) (sid : StreamId)
    {done : BlockAcc → ReadHalf → ReadHalf}
    (hdone : ∀ acc rh, IsHeaderMap acc.map → rh.Inv cfg → (done acc rh).Inv cfg) :
    KeepsReadInv cfg fun rh => Machine.hbDecodeZ eng cfg L sid rh done := by
  intro rh rh' hi h
  have broke {q : ReadHalf} {st : Status} (hst : st ≠ .ok) (hq : q.responses = rh.responses) :
      (q.spoilInflater.breakHalf.raise st 0 []).Inv cfg :=
    (ReadHalf.Inv.of_compressed hn (fun hr => by simp at hr) (by simpa [hq] using hi.results)).raise hst _ _
  obtain ⟨_, st, hst, rfl⟩ | ⟨_, ⟨z, _, rfl⟩ | ⟨ds, out, _, _, rfl | ⟨acc, hp, _, rfl⟩⟩⟩ := hbDecodeZ_cases h
  · exact broke (by rcases hst with rfl | ⟨e, rfl⟩ <;> simp) rfl
  · exact broke (by simp) rfl
  · exact broke (by simp) rfl
  · exact hdone _ _ (isHeaderMap_of_hbParse hp) (.of_compressed hn (fun _ => rfl) hi.results)

/-- HB_DECODE and the checks after it keep the invariant (R162, R175). -/
theorem hbDecode (eng : Engine) (length fixed : Nat) {set : BannedSet} {sid : StreamId} {frame : HeaderMap → Frame}
    (hframe : ∀ m, sid ≠ 0 → goodMap set m → (frame m).valid cfg.headersParity) :
    KeepsReadInv cfg fun rh => Machine.hbDecode eng cfg length fixed sid rh (finishHeaders set sid frame) := by
  have hdone (acc : BlockAcc) (rh : ReadHalf) (hm : IsHeaderMap acc.map) (hi : rh.Inv cfg) :
      (finishHeaders set sid frame acc rh).Inv cfg := by
    rw [finishHeaders_eq]
    exact hi.finish (headerResult_valid hm hframe)
  cases hn : cfg.nocomp with
  | true =>
    simp only [Machine.hbDecode, hn, if_true]
    exact .read fun acc bs rest hp => .answer fun rh hi => hdone acc rh (isHeaderMap_of_hbParse hp) hi
  | false =>
    simp only [Machine.hbDecode, hn, Bool.false_eq_true, if_false]
    exact .hbDecodeZ eng hn _ sid hdone

/-- The length precondition before a header-bearing decode (R201). -/
theorem afterLengthCheck (h : ReadHeader) (fixed : Nat) {rule : ReadHalf → Option ReadHalf} (hr : KeepsReadInv cfg rule) :
    KeepsReadInv cfg fun rh => if lengthTooSmall cfg h fixed then some (raiseTooSmall rh) else rule rh := by
  intro rh rh' hi h
  split at h
  · cases h; exact hi.breakHalf.raise (by simp) _ _
  · exact hr _ _ hi h

end KeepsReadInv

/-- Every read rule keeps the read half's invariant: what it returns has passed the checks of its variant. -/
theorem readRule_keeps_inv (eng : Engine) (cfg : Cfg) (i : Instr) : KeepsReadInv cfg (readRule eng cfg i) := by
  cases i <;> rename_i form <;> cases form
  case synStream.read h =>
    exact .afterLengthCheck h 10 <| .read fun sid _ _ _ => .read fun assoc _ _ _ => .read fun pb _ _ _ =>
      .read fun slot _ _ _ => .hbDecode eng _ _ fun m h0 hm => ⟨rfl, h0, hm⟩
  case synReply.read h =>
    exact .afterLengthCheck h 4 <| .read fun sid _ _ _ => .hbDecode eng _ _ fun m h0 hm => ⟨rfl, h0, hm⟩
  case headers.read h =>
    exact .afterLengthCheck h 4 <| .read fun sid _ _ _ => .hbDecode eng _ _ fun m h0 hm => ⟨rfl, h0, hm⟩
  case rstStream.read h =>
    refine .read fun sid _ _ _ => .read fun status _ _ _ => .answer fun rh hi => ?_
    split
    · exact hi.raise (by simp) _ _
    · split
      · exact hi.raise (by simp) _ _
      · exact hi.returnFrame (frame := .rstStream ..) ⟨rfl, ‹_›, ‹_›⟩ _
  case settings.read h =>
    exact .read fun n _ _ _ => .read fun entries _ _ _ => .answer fun rh hi =>
      hi.returnFrame (frame := .settings (cfOf .settings h) entries) rfl _
  case ping.read h =>
    refine .read fun id _ _ _ => .answer fun rh hi => ?_
    split
    · exact hi.raise (by simp) _ _
    · rename_i hbad
      have hflags : h.flags = 0 := by simpa [pingHeaderBad] using hbad
      split
      · exact hi.raise (by simp) _ _
      · exact hi.returnFrame (frame := .ping ..) ⟨rfl, hflags, ‹_›⟩ _
  case goAway.read h =>
    refine .read fun lastGood _ _ _ => .read fun status _ _ _ => .answer fun rh hi => ?_
    split
    · exact hi.raise (by simp) _ _
    · rename_i hbad
      have hfields : h.flags = 0 ∧ h.length = 8 := by simpa [fixedEightHeaderBad] using hbad
      exact hi.returnFrame (frame := .goAway ..) ⟨rfl, hfields⟩ _
  case windowUpdate.read h =>
    refine .read fun sid _ _ _ => .read fun delta _ _ _ => .answer fun rh hi => ?_
    split
    · exact hi.raise (by simp) _ _
    · rename_i hbad
      obtain ⟨hflags, hlen⟩ : h.flags = 0 ∧ h.length = 8 := by simpa [fixedEightHeaderBad] using hbad
      split
      · exact hi.raise (by simp) _ _
      · exact hi.returnFrame (frame := .windowUpdate ..) ⟨rfl, hflags, hlen, ‹_›⟩ _
  case data.read h =>
    refine .read fun payload _ _ hp => .answer fun rh hi => ?_
    split
    · exact hi.raise (by simp) _ _
    · have hlen : payload.length ≤ 0xFFFFFF := by
        have := (getBytes_eq_some hp).2
        have := h.length.isLt
        omega
      exact hi.returnFrame (frame := .data ..) ⟨‹_›, hlen⟩ _
  case unknownControlType.read h => exact .answer fun rh hi => hi.raise (by simp) _ _
  all_goals exact .noAnswer

/-! ## The whole state -/

/-- One operation of a half keeps the invariant: it runs in a live block only. -/
theorem OperationLeaves.keeps_inv {s t : State} (h : OperationLeaves s t) (hi : s.Inv) : t.Inv := by
  have withRead {rh : ReadHalf} {rule : ReadHalf → Option ReadHalf} (hs : s.canRead) (hk : KeepsReadInv s.cfg rule)
      (h : readHeader s.rh rule = some rh) : State.Inv { s with rh := rh } := by
    obtain ⟨hw, hr⟩ := (State.inv_iff_of_live hs.1).mp hi
    exact (State.inv_iff_of_live (s := { s with rh := rh }) hs.1).mpr ⟨hw, hk.readHeader _ _ hr h⟩
  cases h with
  | waits => exact hi
  | wrote i wh hs h =>
    obtain ⟨hw, hr⟩ := (State.inv_iff_of_live hs.1).mp hi
    exact (State.inv_iff_of_live (s := { s with wh := wh }) hs.1).mpr ⟨writeRule_keeps_inv h hw, hr⟩
  | read i rh hs h => exact withRead hs (readRule_keeps_inv _ _ i) h
  | readNoHeader rh hs h => exact withRead hs .noAnswer h

/-- A constructed block meets the invariant, whatever stood there before (R40, R360, R361). -/
theorem construct_inv (nocomp ok : Bool) (port : SinkPort) (source : Source) (s : State) :
    (construct nocomp ok port source s).Inv where
  sinkPos := rfl
  scratch _ := rfl
  frames _ := wholeFrames_nil
  compressor := by cases nocomp <;> cases ok <;> simp [construct, WriteHalf.construct, Cfg.atReset]
  noEngine := by cases nocomp <;> cases ok <;> simp [construct, WriteHalf.construct, ReadHalf.construct]
  decompressor _ := rfl
  fence _ := rfl
  results r hr := by cases hr

/-- A released block has no engine, an empty scratch buffer, and all else as it was (R363). -/
theorem releaseBlock_inv {s : State} (hi : s.Inv) : (releaseBlock s).Inv where
  sinkPos := hi.sinkPos
  scratch _ := rfl
  frames := hi.frames
  compressor h := by cases h
  noEngine _ := ⟨rfl, rfl⟩
  decompressor _ := rfl
  fence := hi.fence
  results := hi.results

/-- The invariant reads neither the list of outside actions nor the named turns. -/
theorem State.Inv.withHostAndTurns {s : State} (hi : s.Inv) (host : List HostAction) (turns : List Agent) :
    State.Inv { s with host := host, turns := turns } :=
  ⟨hi.sinkPos, hi.scratch, hi.frames, hi.compressor, hi.noEngine, hi.decompressor, hi.fence, hi.results⟩

/-- Every outside action keeps the invariant. -/
theorem hostAction_keeps_inv {a : HostAction} {rest : List HostAction} {s t : State}
    (h : hostAction a rest s = .next t) (hi : s.Inv) : t.Inv := by
  obtain ⟨_, _, _, _, _, rfl⟩ | ⟨_, _, rfl⟩ | ⟨_, _, _, rfl⟩ | ⟨_, rfl⟩ | rfl := hostAction_next h
  · exact (construct_inv ..).withHostAndTurns rest s.turns
  · exact ⟨hi.sinkPos, hi.scratch, hi.frames, hi.compressor, hi.noEngine, hi.decompressor, hi.fence, hi.results⟩
  · exact ⟨hi.sinkPos, hi.scratch, hi.frames, hi.compressor, hi.noEngine, hi.decompressor, hi.fence, hi.results⟩
  · exact (releaseBlock_inv hi).withHostAndTurns rest s.turns
  · exact hi

/-- Settles O52: a move of a half runs one rule, which keeps that half's invariant; the outside actions keep the state's. -/
theorem stepKeepsTheInvariant : Obligations.StepKeepsTheInvariant := by
  unfold Obligations.StepKeepsTheInvariant
  intro s t hi h
  obtain ⟨turns, hmove⟩ := step_next h
  have hi' := hi.withHostAndTurns s.host turns
  obtain hop | ⟨a, rest, _, hact⟩ := hmove
  · exact hop.keeps_inv hi'
  · exact hostAction_keeps_inv hact hi'

/-! ## RESET -/

/-- Settles O51: the state right after reset is a constructed block. -/
theorem resetMeetsTheInvariant : Obligations.ResetMeetsTheInvariant := by
  unfold Obligations.ResetMeetsTheInvariant
  have hreset : construct false true .accepts { bytes := [], ending := .silent } State.reset = State.reset := rfl
  exact hreset ▸ construct_inv ..

/-- RESET of an idle block constructs it anew (R360). -/
theorem hostAction_reset_of_idle (nocomp ok : Bool) (port : SinkPort) (source : Source) (rest : List HostAction)
    {s : State} (hw : s.wh.request = none) (hr : s.rh.request = false) :
    hostAction (.reset nocomp ok port source) rest s =
      .next { construct nocomp ok port source s with host := rest } := by
  simp [hostAction, State.busy, hw, hr]

/-- Settles O1: RESET constructs the block, and whether DEFLATE.init failed decides its life. -/
theorem resetActionLeavesTheValuesOfR40 : Obligations.ResetActionLeavesTheValuesOfR40 := by
  unfold Obligations.ResetActionLeavesTheValuesOfR40
  intro nocomp ok port source rest s hw hr
  rw [hostAction_reset_of_idle nocomp ok port source rest hw hr]
  refine ⟨fun hok => ?_, fun hn hf => ⟨_, rfl, ?_⟩⟩
  · have hlive : (nocomp || ok) = true := by simpa using hok
    simp only [construct, hlive, if_true]
    rfl
  · simp [construct, hn, hf]

end Sys2Proof.Machine

namespace Sys2Proof.Machine

/-! # The memory family: when an operation waits for its port -/

/-! ## A half with another port -/

/-- `wh` with another sink port. -/
def WriteHalf.withPort (wh : WriteHalf) (port : SinkPort) : WriteHalf := { wh with sink := { wh.sink with port := port } }

/-- `rh` with something else behind the source's bytes. -/
def ReadHalf.withEnding (rh : ReadHalf) (ending : SourceEnd) : ReadHalf :=
  { rh with source := { rh.source with ending := ending } }

@[simp] theorem WriteHalf.withPort_port (wh : WriteHalf) (port : SinkPort) : (wh.withPort port).sink.port = port := rfl
@[simp] theorem WriteHalf.withPort_accepted (wh : WriteHalf) (port : SinkPort) :
    (wh.withPort port).sink.accepted = wh.sink.accepted := rfl
@[simp] theorem WriteHalf.withPort_responses (wh : WriteHalf) (port : SinkPort) :
    (wh.withPort port).responses = wh.responses := rfl

theorem WriteHalf.withPort_of_port {wh : WriteHalf} {port : SinkPort} (h : wh.sink.port = port) : wh.withPort port = wh := by
  subst h; rfl

@[simp] theorem ReadHalf.withEnding_bytes (rh : ReadHalf) (ending : SourceEnd) :
    (rh.withEnding ending).source.bytes = rh.source.bytes := rfl
@[simp] theorem ReadHalf.withEnding_ending (rh : ReadHalf) (ending : SourceEnd) :
    (rh.withEnding ending).source.ending = ending := rfl
@[simp] theorem ReadHalf.withEnding_responses (rh : ReadHalf) (ending : SourceEnd) :
    (rh.withEnding ending).responses = rh.responses := rfl

theorem ReadHalf.withEnding_of_ending {rh : ReadHalf} {ending : SourceEnd} (h : rh.source.ending = ending) :
    rh.withEnding ending = rh := by
  subst h; rfl

/-! ## The two top-level operations, with what their rule answers -/

theorem exec_read {i : Instr} (hi : i.isRead = true) (s : State) :
    exec i s = readFrame (readRule Config.engine s.cfg i) s := by
  rw [exec_eq, if_pos hi]

theorem exec_write {i : Instr} (hi : i.isRead = false) (s : State) :
    exec i s = writeFrame i.wellFormed (writeRule Config.engine s.cfg i) s := by
  rw [exec_eq, if_neg (by simp [hi])]

theorem readFrame_waits {s : State} {rule : ReadHalf → Option ReadHalf} (hs : s.canRead)
    (h : readHeader s.rh rule = none) : readFrame rule s = .next s := by
  rw [readFrame_runs rule hs, h]

theorem readFrame_answers {s : State} {rule : ReadHalf → Option ReadHalf} {rh : ReadHalf} (hs : s.canRead)
    (h : readHeader s.rh rule = some rh) : readFrame rule s = .next { s with rh := rh } := by
  rw [readFrame_runs rule hs, h]

theorem writeFrame_waits {s : State} {rule : WriteHalf → Option WriteHalf} (hs : s.canWrite) (h : rule s.wh = none) :
    writeFrame true rule s = .next s := by
  rw [writeFrame_runs rule hs, h]

theorem writeFrame_answers {s : State} {rule : WriteHalf → Option WriteHalf} {wh : WriteHalf} (hs : s.canWrite)
    (h : rule s.wh = some wh) : writeFrame true rule s = .next { s with wh := wh } := by
  rw [writeFrame_runs rule hs, h]

/-- The state a READ_FRAME leaves is the one its rule answers. -/
theorem readFrame_next_of_answer {s t : State} {rule : ReadHalf → Option ReadHalf} {rh : ReadHalf}
    (h : readFrame rule s = .next t) (hr : readHeader s.rh rule = some rh) : s.canRead ∧ t = { s with rh := rh } := by
  have hs := (readFrame_next h).1
  rw [readFrame_answers hs hr] at h
  cases h
  exact ⟨hs, rfl⟩

/-- The state a WRITE_FRAME leaves is the one its rule answers. -/
theorem writeFrame_next_of_answer {wf : Bool} {s t : State} {rule : WriteHalf → Option WriteHalf} {wh : WriteHalf}
    (h : writeFrame wf rule s = .next t) (hw : rule s.wh = some wh) :
    s.canWrite ∧ wf = true ∧ t = { s with wh := wh } := by
  obtain ⟨hs, rfl, _⟩ := writeFrame_next h
  rw [writeFrame_answers hs hw] at h
  cases h
  exact ⟨hs, rfl, rfl⟩

/-! ## A write rule at every sink port -/

/-- The rule run on `wh` would append `bs` and leave `wh'` up to its port: at a port with room it does so; at a silent port without
room it waits; at a failing one without room it returns a result all the same (R54, U23). A rule that ends before it emits has
`bs` empty. -/
structure Emits (rule : WriteHalf → Option WriteHalf) (wh : WriteHalf) (bs : Bytes) (wh' : WriteHalf) : Prop where
  accepted : wh'.sink.accepted = wh.sink.accepted ++ bs
  result : ∃ r, wh'.responses = wh.responses ++ [r]
  room (port : SinkPort) (h : port.hasRoom bs.length = true) :
    rule (wh.withPort port) = some (wh'.withPort (port.after bs.length))
  silent (room : Nat) (h : room < bs.length) : rule (wh.withPort (.silentAfter room)) = none
  fails (room e : Nat) (h : room < bs.length) :
    ∃ q r, rule (wh.withPort (.failsAfter room e)) = some q ∧ q.responses = wh.responses ++ [r]

/-- A rule that emits at most one frame, decided before the port is seen. -/
def EmitsOnce (rule : WriteHalf → Option WriteHalf) : Prop := ∀ wh, ∃ bs wh', Emits rule wh bs wh'

/-- Any port has room for the bytes, or fails or falls silent within them. -/
theorem SinkPort.room_cases (port : SinkPort) (n : Nat) :
    port.hasRoom n = true ∨ (∃ room e, port = .failsAfter room e ∧ room < n) ∨
      ∃ room, port = .silentAfter room ∧ room < n := by
  cases port with
  | accepts => exact .inl rfl
  | failsAfter room e => simpa [SinkPort.hasRoom] using le_or_gt n room
  | silentAfter room => simpa [SinkPort.hasRoom] using le_or_gt n room

/-- A rule that answers has returned one result. -/
theorem EmitsOnce.responses {rule : WriteHalf → Option WriteHalf} (hr : EmitsOnce rule) {wh q : WriteHalf}
    (h : rule wh = some q) : ∃ r, q.responses = wh.responses ++ [r] := by
  obtain ⟨bs, wh', he⟩ := hr wh
  have hq : rule (wh.withPort wh.sink.port) = some q := h
  obtain hroom | ⟨room, e, hp, hl⟩ | ⟨room, hp, hl⟩ := wh.sink.port.room_cases bs.length
  · obtain rfl := Option.some.inj ((he.room _ hroom).symm.trans hq)
    exact he.result
  · obtain ⟨q', r, hq', hres⟩ := he.fails room e hl
    obtain rfl := Option.some.inj (hq'.symm.trans (hp ▸ hq))
    exact ⟨r, hres⟩
  · cases (he.silent room hl).symm.trans (hp ▸ hq)

/-- Emission at a silent port without room waits (R54, U23). -/
theorem emit_silent {bs : Bytes} {wh : WriteHalf} {room : Nat} (after : WriteHalf → WriteHalf)
    (hp : wh.sink.port = .silentAfter room) (h : room < bs.length) : emit bs wh after = none := by
  simp [emit, sinkWrite, hp, Nat.not_le.mpr h]

/-- A rule that comes to emitting `bs` with the half `wh₁`, whose sink is still that of `wh`. -/
theorem Emits.of_emit {rule : WriteHalf → Option WriteHalf} {wh wh₁ : WriteHalf} {bs : Bytes}
    {after : WriteHalf → WriteHalf}
    (hrule : ∀ port, rule (wh.withPort port) = emit bs (wh₁.withPort port) after)
    (hafter : ∀ q port, after (q.withPort port) = (after q).withPort port)
    (hsink : (after (wh₁.accept bs .accepts)).sink.accepted = wh.sink.accepted ++ bs)
    (hres : (after (wh₁.accept bs .accepts)).responses = wh.responses) (hres₁ : wh₁.responses = wh.responses) :
    Emits rule wh bs ((after (wh₁.accept bs .accepts)).finish .ok 0) where
  accepted := hsink
  result := ⟨_, congrArg (· ++ [_]) hres⟩
  room port h := by
    have hacc : (wh₁.withPort port).accept bs (port.after bs.length) =
        (wh₁.accept bs .accepts).withPort (port.after bs.length) := rfl
    rw [hrule, emit_room after h, WriteHalf.withPort_port, hacc, hafter]
    rfl
  silent room h := (hrule _).trans (emit_silent after rfl h)
  fails room e h := by
    simp [hrule, emit, sinkWrite, Nat.not_le.mpr h, hres₁]

/-- A rule that ends the operation without a look at the sink. -/
theorem Emits.of_ended {rule : WriteHalf → Option WriteHalf} {wh wh' : WriteHalf}
    (hrule : ∀ port, rule (wh.withPort port) = some (wh'.withPort port)) (hsink : wh'.sink.accepted = wh.sink.accepted)
    (hres : ∃ r, wh'.responses = wh.responses ++ [r]) : Emits rule wh [] wh' where
  accepted := by simpa using hsink
  result := hres
  room port _ := by cases port <;> exact hrule _
  silent _ h := by simp at h
  fails _ _ h := by simp at h

namespace EmitsOnce

theorem ended {st : Status} {sid : StreamId} : EmitsOnce fun wh => some (wh.finish st sid) :=
  fun wh => ⟨[], wh.finish st sid, .of_ended (fun _ => rfl) rfl ⟨_, rfl⟩⟩

theorem ite {c : Prop} [Decidable c] {r₁ r₂ : WriteHalf → Option WriteHalf} (h₁ : EmitsOnce r₁) (h₂ : EmitsOnce r₂) :
    EmitsOnce fun wh => if c then r₁ wh else r₂ wh := by
  by_cases hc : c
  · simpa only [hc, if_true] using h₁
  · simpa only [hc, if_false] using h₂

theorem emit {bs : Bytes} : EmitsOnce fun wh => Machine.emit bs wh id :=
  fun _ => ⟨_, _, .of_emit (fun _ => rfl) (fun _ _ => rfl) rfl rfl rfl⟩

theorem emitCtrl {k : ControlKind} {flags : BitVec 8} {payload : Bytes} {sid : StreamId} :
    EmitsOnce fun wh => Machine.emitCtrl k flags payload sid wh id :=
  .ite .ended .emit

end EmitsOnce

/-- HB_ENCODE does not see the sink (R172, R173). -/
theorem hbEncode_withPort (eng : Engine) (cfg : Cfg) (hl : HeaderList) (wh : WriteHalf) (port : SinkPort) :
    hbEncode eng cfg hl (wh.withPort port) = (hbEncode eng cfg hl wh).withPort port := by
  unfold hbEncode; split <;> rfl

@[simp] theorem hbEncode_sink (eng : Engine) (cfg : Cfg) (hl : HeaderList) (wh : WriteHalf) :
    (hbEncode eng cfg hl wh).sink = wh.sink := by
  unfold hbEncode; split <;> rfl

@[simp] theorem hbEncode_responses (eng : Engine) (cfg : Cfg) (hl : HeaderList) (wh : WriteHalf) :
    (hbEncode eng cfg hl wh).responses = wh.responses := by
  unfold hbEncode; split <;> rfl

/-- A header-bearing encode emits one frame, or none when it is over-long (R200). -/
theorem EmitsOnce.hbWrite {eng : Engine} {cfg : Cfg} {k : ControlKind} {fixed : Bytes} {hl : HeaderList} {sid : StreamId}
    {flags : BitVec 8} : EmitsOnce (Machine.hbWrite eng cfg k fixed hl sid flags) := by
  intro wh
  have hscratch (port : SinkPort) :
      (hbEncode eng cfg hl (wh.withPort port)).scratch = (hbEncode eng cfg hl wh).scratch := by
    rw [hbEncode_withPort]; rfl
  by_cases hlen : (fixed ++ (hbEncode eng cfg hl wh).scratch).length > maxLength
  · refine ⟨_, (if cfg.nocomp then (hbEncode eng cfg hl wh).scratchClear else (hbEncode eng cfg hl wh).breakHalf).finish
      .invalidControlFrame sid, .of_ended (fun port => ?_) ?_ ⟨⟨.invalidControlFrame, sid⟩, ?_⟩⟩
    · rw [Machine.hbWrite, hscratch, if_pos hlen, hbEncode_withPort]
      split <;> rfl
    · simp only [WriteHalf.finish_sink]; split <;> simp
    · rw [WriteHalf.finish_responses]; congr 1; split <;> simp
  · refine ⟨controlFrame k flags (fixed ++ (hbEncode eng cfg hl wh).scratch), _,
      .of_emit (wh₁ := hbEncode eng cfg hl wh) (after := WriteHalf.scratchClear) (fun port => ?_) (fun _ _ => rfl) ?_ ?_ ?_⟩
    · rw [Machine.hbWrite, hscratch, if_neg hlen, Machine.emitCtrl, if_neg hlen, hbEncode_withPort]
    all_goals simp

/-- Every WRITE_FRAME emits at most one frame. -/
theorem writeRule_emitsOnce (eng : Engine) (cfg : Cfg) {i : Instr} (hi : i.isRead = false) :
    EmitsOnce (writeRule eng cfg i) := by
  cases i <;> rename_i form <;> cases form
  case synStream.write | synReply.write | headers.write => exact .ite .ended .hbWrite
  case settings.write | ping.write | windowUpdate.write => exact .ite .ended .emitCtrl
  case rstStream.write => exact .ite .ended (.ite .ended .emitCtrl)
  case goAway.write f => exact .emitCtrl (payload := f.payload) (sid := 0)
  case data.write => exact .ite .ended (.ite .ended (.ite .ended .emit))
  case unknownControlType.write => exact .ended
  all_goals cases hi

/-! ## A read rule at every source end -/

/-- The source's bytes are enough: the rule ends with one result, no IoError, whatever follows them. -/
def EndsWithin (rule : ReadHalf → Option ReadHalf) (rh : ReadHalf) : Prop :=
  ∃ (rh' : ReadHalf) (r : RResult), (∀ e, r.status ≠ .ioError e) ∧ rh'.responses = rh.responses ++ [r] ∧
    ∀ ending, rule (rh.withEnding ending) = some (rh'.withEnding ending)

/-- The result of a READ_FRAME that met the transport error `e` (R53, R135). -/
def transportResult (e : Nat) : RResult := ⟨.ioError (.transport e), 0, none, []⟩

/-- The rule asks for more bytes than there are: it waits on a silent source, and one that ends or fails is a result (R53, U23). -/
structure RunsShort (rule : ReadHalf → Option ReadHalf) (rh : ReadHalf) : Prop where
  silent : rule (rh.withEnding .silent) = none
  error (e : Nat) : ∃ q, rule (rh.withEnding (.error e)) = some q ∧ q.responses = rh.responses ++ [transportResult e]
  eof : ∃ q r, rule (rh.withEnding .eof) = some q ∧ q.responses = rh.responses ++ [r]

/-- A rule whose reads, of bytes that are there, do not depend on what follows them. -/
def ReadsOnce (rule : ReadHalf → Option ReadHalf) : Prop := ∀ rh, EndsWithin rule rh ∨ RunsShort rule rh

/-- A rule that answers has returned one result. -/
theorem ReadsOnce.responses {rule : ReadHalf → Option ReadHalf} (hr : ReadsOnce rule) {rh q : ReadHalf}
    (h : rule rh = some q) : ∃ r, q.responses = rh.responses ++ [r] := by
  have hq : rule (rh.withEnding rh.source.ending) = some q := h
  obtain ⟨rh', r, _, hres, hrule⟩ | hshort := hr rh
  · obtain rfl := Option.some.inj ((hrule _).symm.trans hq)
    exact ⟨r, hres⟩
  · cases hend : rh.source.ending <;> rw [hend] at hq
    case eof =>
      obtain ⟨q', r, hq', hres⟩ := hshort.eof
      obtain rfl := Option.some.inj (hq'.symm.trans hq)
      exact ⟨r, hres⟩
    case error e =>
      obtain ⟨q', hq', hres⟩ := hshort.error e
      obtain rfl := Option.some.inj (hq'.symm.trans hq)
      exact ⟨_, hres⟩
    case silent => cases hshort.silent.symm.trans hq

/-- A change of the read half that ends its operation with a result, no IoError, and does not see what follows the source's
bytes. -/
def Answers (f : ReadHalf → ReadHalf) : Prop :=
  ∀ rh, ∃ r, (∀ e, r.status ≠ .ioError e) ∧ (f rh).responses = rh.responses ++ [r] ∧
    ∀ ending, f (rh.withEnding ending) = (f rh).withEnding ending

namespace Answers

theorem raise {st : Status} {sid : StreamId} {diag : List Diagnostic} (h : ∀ e, st ≠ .ioError e := by simp) :
    Answers fun rh => rh.raise st sid diag :=
  fun _ => ⟨_, h, rfl, fun _ => rfl⟩

theorem returnFrame {frame : Frame} {diag : List Diagnostic} : Answers fun rh => rh.returnFrame frame diag :=
  fun _ => ⟨_, by simp, rfl, fun _ => rfl⟩

theorem ite {c : Prop} [Decidable c] {f g : ReadHalf → ReadHalf} (hf : Answers f) (hg : Answers g) :
    Answers fun rh => if c then f rh else g rh := by
  by_cases hc : c
  · simpa only [hc, if_true] using hf
  · simpa only [hc, if_false] using hg

/-- The length precondition's result (R201). -/
theorem raiseTooSmall : Answers Machine.raiseTooSmall := fun _ => ⟨_, by simp, rfl, fun _ => rfl⟩

/-- The checks after a block (R162, R324). -/
theorem finishHeaders {set : BannedSet} {sid : StreamId} {frame : HeaderMap → Frame} (acc : BlockAcc) :
    Answers (Machine.finishHeaders set sid frame acc) :=
  .ite .raise (.ite .raise .returnFrame)

/-- A rule that comes to such an answer after a change `g` of the half that keeps its results and does not see the source's
end. -/
theorem endsWithin {f g : ReadHalf → ReadHalf} (hf : Answers f) {rule : ReadHalf → Option ReadHalf} {rh : ReadHalf}
    (hg : (g rh).responses = rh.responses) (hend : ∀ ending, g (rh.withEnding ending) = (g rh).withEnding ending)
    (h : ∀ ending, rule (rh.withEnding ending) = some (f (g (rh.withEnding ending)))) : EndsWithin rule rh := by
  obtain ⟨r, hr, hres, hcomm⟩ := hf (g rh)
  exact ⟨f (g rh), r, hr, hg ▸ hres, fun ending => by rw [h, hend, hcomm]⟩

end Answers

/-- A rule that runs short after it has gone on as `rule₁`, on a half with the same results. -/
theorem RunsShort.of_eq {rule rule₁ : ReadHalf → Option ReadHalf} {rh rh₁ : ReadHalf} (hs : RunsShort rule₁ rh₁)
    (h : ∀ ending, rule (rh.withEnding ending) = rule₁ (rh₁.withEnding ending))
    (hres : rh₁.responses = rh.responses) : RunsShort rule rh where
  silent := (h _).trans hs.silent
  error e := by rw [h, ← hres]; exact hs.error e
  eof := by rw [h, ← hres]; exact hs.eof

theorem EndsWithin.of_eq {rule rule₁ : ReadHalf → Option ReadHalf} {rh rh₁ : ReadHalf} (he : EndsWithin rule₁ rh₁)
    (h : ∀ ending, rule (rh.withEnding ending) = rule₁ (rh₁.withEnding ending))
    (hres : rh₁.responses = rh.responses) : EndsWithin rule rh := by
  obtain ⟨rh', r, hr, hresp, hrule⟩ := he
  exact ⟨rh', r, hr, hres ▸ hresp, fun ending => (h ending).trans (hrule ending)⟩

/-- READ of bytes that are not there (R135). -/
theorem read_runsShort {α : Type} {p : Bytes → Option (α × Bytes)} {k : α → ReadHalf → Option ReadHalf} {rh : ReadHalf}
    (h : p rh.source.bytes = none) : RunsShort (fun rh => read p rh k) rh where
  silent := by simp [read, srcRead, h]
  error e := ⟨_, read_error k h rfl, rfl⟩
  eof := ⟨_, _, read_eof k h rfl, rfl⟩

/-- The header read goes on with the second word (R130). -/
theorem readHeader_of_word {rh : ReadHalf} (k : ReadHalf → Option ReadHalf) {w : Word} {rest : Bytes}
    (h : get32 rh.source.bytes = some (w, rest)) : readHeader rh k = read get32 (rh.consumeTo rest) fun _ rh => k rh := by
  rw [readHeader, srcRead_some h]

/-- The header read of a source with less than a header (R130). -/
theorem readHeader_runsShort {k : ReadHalf → Option ReadHalf} {rh : ReadHalf} (h : rh.source.bytes.length < 8) :
    RunsShort (fun rh => readHeader rh k) rh := by
  cases hw : get32 rh.source.bytes with
  | none =>
    refine ⟨by simp [readHeader, srcRead, hw], fun e => ⟨_, by simp [readHeader, srcRead, hw]; rfl, rfl⟩, ?_⟩
    cases hb : rh.source.bytes with
    | nil => exact ⟨_, _, by simp [readHeader, srcRead, hb, get32]; rfl, rfl⟩
    | cons b bs => exact ⟨_, _, by rw [hb] at hw; simp [readHeader, srcRead, hb, hw]; rfl, rfl⟩
  | some wr =>
    have hlen := congrArg List.length (eq_be32_of_get32 hw)
    simp only [List.length_append, length_be32] at hlen
    have hshort : get32 (rh.consumeTo wr.2).source.bytes = none := get32_eq_none.mpr (by simp; omega)
    exact (read_runsShort hshort).of_eq (fun _ => readHeader_of_word k hw) rfl

/-- The fenced decode of a source with less than the fence's bytes (R177). -/
theorem hbDecodeZ_runsShort {eng : Engine} {cfg : Cfg} {L : Nat} {sid : StreamId} {done : BlockAcc → ReadHalf → ReadHalf}
    {rh : ReadHalf} (h : getBytes L rh.source.bytes = none) :
    RunsShort (fun rh => hbDecodeZ eng cfg L sid rh done) rh where
  silent := by simp [hbDecodeZ, srcRead, h]
  error e := ⟨_, by simp [hbDecodeZ, srcRead, h]; rfl, rfl⟩
  eof := ⟨_, _, by simp [hbDecodeZ, srcRead, h]; rfl, rfl⟩

namespace ReadsOnce

theorem answer {f : ReadHalf → ReadHalf} (hf : Answers f) : ReadsOnce fun rh => some (f rh) :=
  fun _ => .inl (hf.endsWithin (g := id) rfl (fun _ => rfl) fun _ => rfl)

theorem ite {c : Prop} [Decidable c] {r₁ r₂ : ReadHalf → Option ReadHalf} (h₁ : ReadsOnce r₁) (h₂ : ReadsOnce r₂) :
    ReadsOnce fun rh => if c then r₁ rh else r₂ rh := by
  by_cases hc : c
  · simpa only [hc, if_true] using h₁
  · simpa only [hc, if_false] using h₂

/-- READ, and what follows it (R135). -/
theorem read {α : Type} {p : Bytes → Option (α × Bytes)} {k : α → ReadHalf → Option ReadHalf}
    (hk : ∀ a, ReadsOnce (k a)) : ReadsOnce fun rh => Machine.read p rh k := by
  intro rh
  cases hp : p rh.source.bytes with
  | none => exact .inr (read_runsShort hp)
  | some ar =>
    have hgo (ending : SourceEnd) :
        Machine.read p (rh.withEnding ending) k = k ar.1 ((rh.consumeTo ar.2).withEnding ending) := read_some k hp
    exact (hk ar.1 (rh.consumeTo ar.2)).imp (·.of_eq hgo rfl) (·.of_eq hgo rfl)

/-- The header read, and the rule after it (R130). -/
theorem readHeader {rule : ReadHalf → Option ReadHalf} (hr : ReadsOnce rule) :
    ReadsOnce fun rh => Machine.readHeader rh rule := by
  intro rh
  cases hw : get32 rh.source.bytes with
  | none => exact .inr (readHeader_runsShort (by have := get32_eq_none.mp hw; omega))
  | some wr =>
    have hgo (ending : SourceEnd) : Machine.readHeader (rh.withEnding ending) rule =
        Machine.read get32 ((rh.consumeTo wr.2).withEnding ending) fun _ rh => rule rh := readHeader_of_word rule hw
    exact (read (fun _ => hr) (rh.consumeTo wr.2)).imp (·.of_eq hgo rfl) (·.of_eq hgo rfl)

/-- The fenced decode: the bytes of the fence are there or not, and then only they count (R177). -/
theorem hbDecodeZ {eng : Engine} {cfg : Cfg} {L : Nat} {sid : StreamId} {done : BlockAcc → ReadHalf → ReadHalf}
    (hdone : ∀ acc, Answers (done acc)) : ReadsOnce fun rh => Machine.hbDecodeZ eng cfg L sid rh done := by
  intro rh
  cases hc : getBytes L rh.source.bytes with
  | none => exact .inr (hbDecodeZ_runsShort hc)
  | some cr =>
    refine .inl ?_
    have hgo (ending : SourceEnd) :
        srcRead (getBytes L) (openFence eng cfg L (rh.withEnding ending)) =
          .got cr.1 ((openFence eng cfg L (rh.withEnding ending)).consumeTo cr.2) := srcRead_some hc
    have hinf (ending : SourceEnd) : inflater eng cfg (rh.withEnding ending) = inflater eng cfg rh := rfl
    have broke (st : Status) (hst : ∀ e, st ≠ .ioError e)
        (h : ∀ ending, Machine.hbDecodeZ eng cfg L sid (rh.withEnding ending) done =
          some (({ (openFence eng cfg L (rh.withEnding ending)).consumeTo cr.2 with
            fence := 0 }.spoilInflater.breakHalf).raise st 0 [])) :
        EndsWithin (fun rh => Machine.hbDecodeZ eng cfg L sid rh done) rh :=
      (Answers.raise hst).endsWithin (g := fun rh =>
        { (openFence eng cfg L rh).consumeTo cr.2 with fence := 0 }.spoilInflater.breakHalf) rfl (fun _ => rfl) h
    cases hfeed : eng.inflateFeed (inflater eng cfg rh) cr.1 with
    | zerr z => exact broke (.zlibError z) (by simp) fun ending => by simp [Machine.hbDecodeZ, hgo, hinf, hfeed]
    | fed ds out boundary =>
      cases hparse : hbParse sid out with
      | none =>
        exact broke .wrongCompressedPayloadSize (by simp) fun ending => by
          simp [Machine.hbDecodeZ, hgo, hinf, hfeed, hparse]
      | some ar =>
        by_cases hexact : ar.2 = [] ∧ boundary = true
        · exact (hdone ar.1).endsWithin (g := fun rh =>
            { (openFence eng cfg L rh).consumeTo cr.2 with fence := 0, zd := some ds }) rfl (fun _ => rfl)
            fun ending => by simp [Machine.hbDecodeZ, hgo, hinf, hfeed, hparse, hexact]
        · exact broke .wrongCompressedPayloadSize (by simp) fun ending => by
            simp [Machine.hbDecodeZ, hgo, hinf, hfeed, hparse, hexact]

/-- HB_DECODE in either mode, and the checks after it (R175). -/
theorem hbDecode {eng : Engine} {cfg : Cfg} {length fixed : Nat} {sid : StreamId} {set : BannedSet}
    {frame : HeaderMap → Frame} :
    ReadsOnce fun rh => Machine.hbDecode eng cfg length fixed sid rh (finishHeaders set sid frame) :=
  .ite (.read fun acc => .answer (.finishHeaders acc)) (.hbDecodeZ .finishHeaders)

end ReadsOnce

/-- Every READ_FRAME reads what is there and returns one result, or runs short. -/
theorem readRule_readsOnce (eng : Engine) (cfg : Cfg) {i : Instr} (hi : i.isRead = true) :
    ReadsOnce (readRule eng cfg i) := by
  cases i <;> rename_i form <;> cases form
  case synStream.read =>
    exact .ite (.answer .raiseTooSmall) (.read fun _ => .read fun _ => .read fun _ => .read fun _ => .hbDecode)
  case synReply.read | headers.read => exact .ite (.answer .raiseTooSmall) (.read fun _ => .hbDecode)
  case rstStream.read => exact .read fun _ => .read fun _ => .answer (.ite .raise (.ite .raise .returnFrame))
  case settings.read => exact .read fun _ => .read fun _ => .answer .returnFrame
  case ping.read => exact .read fun _ => .answer (.ite .raise (.ite .raise .returnFrame))
  case goAway.read => exact .read fun _ => .read fun _ => .answer (.ite .raise .returnFrame)
  case windowUpdate.read => exact .read fun _ => .read fun _ => .answer (.ite .raise (.ite .raise .returnFrame))
  case data.read => exact .read fun _ => .answer (.ite .raise .returnFrame)
  case unknownControlType.read => exact .answer .raise
  all_goals cases hi

/-! ## The clauses of O42 -/

/-- A WRITE_FRAME that returns nothing has changed nothing. -/
theorem exec_write_noResult {i : Instr} {s t : State} (hi : i.isRead = false) (h : exec i s = .next t)
    (hres : t.wh.responses = s.wh.responses) : t = s := by
  rw [exec_write hi] at h
  obtain ⟨_, _, ⟨wh, hw, rfl⟩ | ⟨_, rfl⟩⟩ := writeFrame_next h
  · obtain ⟨r, hr⟩ := (writeRule_emitsOnce _ _ hi).responses hw
    simp [hr] at hres
  · rfl

/-- A READ_FRAME that returns nothing has changed nothing. -/
theorem exec_read_noResult {i : Instr} {s t : State} (hi : i.isRead = true) (h : exec i s = .next t)
    (hres : t.rh.responses = s.rh.responses) : t = s := by
  rw [exec_read hi] at h
  obtain ⟨_, ⟨rh, hr, rfl⟩ | ⟨_, rfl⟩⟩ := readFrame_next h
  · obtain ⟨r, hr⟩ := (readRule_readsOnce _ _ hi).readHeader.responses hr
    simp [hr] at hres
  · rfl

theorem length_goAway_payload (f : GoAwayCmd) : f.payload.length = 8 := by simp [GoAwayCmd.payload]

/-- A GoAway is 16 bytes: a sink that falls silent within them does not answer (R54, R255). -/
theorem exec_goAway_waits {f : GoAwayCmd} {s : State} {room : Nat} (hs : s.canWrite) (hwf : f.wellFormed = true)
    (hp : s.wh.sink.port = .silentAfter room) (hroom : room < 16) : exec (.goAway (.write f)) s = .next s := by
  have hlen := length_goAway_payload f
  have hwait : wrGoAway f s.wh = none := by
    rw [wrGoAway, emitCtrl, if_neg (by simp [hlen, maxLength])]
    exact emit_silent id hp (by simpa [hlen] using hroom)
  have hwf' : (Instr.goAway (.write f)).wellFormed = true := hwf
  rw [exec_write rfl, hwf']
  exact writeFrame_waits hs hwait

/-- Fewer than eight bytes are no header (R80). -/
theorem decode_short {bs : Bytes} (h : bs.length < 8) : ∃ e, decode bs = .error e := by
  unfold decode
  split
  · exact ⟨_, rfl⟩
  · rename_i w rest hw
    have hlen := congrArg List.length (eq_be32_of_get32 hw)
    simp only [List.length_append, length_be32] at hlen
    rw [get32_eq_none.mpr (by omega)]
    exact ⟨_, rfl⟩

/-- READ_FRAME waits for its header (R130, U23). -/
theorem readStep_waits {s : State} (hs : s.canRead) (hlen : s.rh.source.bytes.length < 8)
    (hend : s.rh.source.ending = .silent) : readStep s = .next s := by
  obtain ⟨e, he⟩ := decode_short hlen
  have hwait := (readHeader_runsShort (k := fun _ => none) hlen).silent
  rw [ReadHalf.withEnding_of_ending hend] at hwait
  rw [readStep, he]
  exact readFrame_waits hs hwait

/-- A WRITE_FRAME waits where its sink falls silent within the frame it would write to one that accepts (R54, U23). -/
theorem exec_write_silentAfter {i : Instr} {s t : State} {room : Nat} (hi : i.isRead = false)
    (hp : s.wh.sink.port = .silentAfter room) (h : exec i (s.withSinkPort .accepts) = .next t) :
    if s.wh.sink.accepted.length + room < t.wh.sink.accepted.length then exec i s = .next s
    else ∃ left, exec i s = .next (t.withSinkPort (.silentAfter left)) := by
  obtain ⟨bs, wh', he⟩ := writeRule_emitsOnce Config.engine s.cfg hi s.wh
  rw [exec_write hi] at h ⊢
  have hwrote : writeRule Config.engine s.cfg i (s.wh.withPort .accepts) = some (wh'.withPort .accepts) :=
    he.room .accepts rfl
  obtain ⟨hs, hwf, rfl⟩ := writeFrame_next_of_answer h hwrote
  have hself := WriteHalf.withPort_of_port hp
  rw [hwf]
  split
  case isTrue hlt =>
    have hsilent := he.silent room (by simpa [he.accepted] using hlt)
    exact writeFrame_waits hs (hself ▸ hsilent)
  case isFalse hge =>
    have hroom := he.room (.silentAfter room) (by simpa [he.accepted, SinkPort.hasRoom] using hge)
    exact ⟨room - bs.length, writeFrame_answers hs (hself ▸ hroom)⟩

/-- A READ_FRAME waits where it would meet the error of a source that fails after the same bytes (R53, U23). -/
theorem exec_read_silent {i : Instr} {s t : State} {e : Nat} (hi : i.isRead = true)
    (hend : s.rh.source.ending = .silent) (h : exec i (s.withSourceEnd (.error e)) = .next t) :
    if t.rh.responses = s.rh.responses ++ [transportResult e] then exec i s = .next s
    else exec i s = .next (t.withSourceEnd .silent) := by
  have hself := ReadHalf.withEnding_of_ending hend
  rw [exec_read hi] at h ⊢
  obtain ⟨rh', r, hr, hres, hread⟩ | hshort := (readRule_readsOnce Config.engine s.cfg hi).readHeader s.rh
  · obtain ⟨hs, rfl⟩ := readFrame_next_of_answer h (hread (.error e))
    split
    case isTrue heq =>
      obtain rfl : r = transportResult e := by simpa [hres] using heq
      exact absurd rfl (hr _)
    case isFalse => exact readFrame_answers hs (hself ▸ hread .silent)
  · obtain ⟨q, hq, hres⟩ := hshort.error e
    obtain ⟨hs, rfl⟩ := readFrame_next_of_answer h hq
    rw [if_pos hres]
    exact readFrame_waits hs (hself ▸ hshort.silent)

/-- Settles O42: a write rule emits at most one frame, a read rule reads what is there, and each answers with one result or,
where its port is silent, with none. -/
theorem waitingChangesNothing : Obligations.WaitingChangesNothing := by
  unfold Obligations.WaitingChangesNothing
  exact ⟨fun i s t h => ⟨fun hi => exec_write_noResult hi h, fun hi => exec_read_noResult hi h⟩,
    fun f s room hs hwf hp hroom => exec_goAway_waits hs hwf hp hroom,
    fun s hs hlen hend => readStep_waits hs hlen hend,
    fun i s t room hi hp h => exec_write_silentAfter hi hp h,
    fun i s t e hi hend h => exec_read_silent hi hend h⟩

end Sys2Proof.Machine

namespace Sys2Proof

/-! # The encoding family: the common header, the packed fields, the limits of a command -/

/-! ## The header forms (R81 to R84, R100) -/

/-- The header forms by their layout: a control variant's, a data frame's, an unknown control frame's. -/
theorem Instr.cases_of_isRead {i : Instr} (hi : i.isRead = true) :
    (∃ k h, i = ControlKind.readInstr k h) ∨ (∃ h, i = .data (.read h)) ∨ ∃ h, i = .unknownControlType (.read h) := by
  cases i <;> rename_i form <;> cases form
  case synStream.read h => exact .inl ⟨.synStream, h, rfl⟩
  case synReply.read h => exact .inl ⟨.synReply, h, rfl⟩
  case rstStream.read h => exact .inl ⟨.rstStream, h, rfl⟩
  case settings.read h => exact .inl ⟨.settings, h, rfl⟩
  case ping.read h => exact .inl ⟨.ping, h, rfl⟩
  case goAway.read h => exact .inl ⟨.goAway, h, rfl⟩
  case headers.read h => exact .inl ⟨.headers, h, rfl⟩
  case windowUpdate.read h => exact .inl ⟨.windowUpdate, h, rfl⟩
  case data.read h => exact .inr (.inl ⟨h, rfl⟩)
  case unknownControlType.read h => exact .inr (.inr ⟨h, rfl⟩)
  all_goals cases hi

@[simp] theorem ControlKind.isRead_readInstr (k : ControlKind) (h : ReadHeader) : (k.readInstr h).isRead = true := by
  cases k <;> rfl

@[simp] theorem ControlKind.wellFormed_readInstr (k : ControlKind) (h : ReadHeader) :
    (k.readInstr h).wellFormed = true := by
  cases k <;> rfl

@[simp] theorem ControlKind.encode_readInstr (k : ControlKind) (h : ReadHeader) :
    encode (k.readInstr h) = be32 (controlWord h.version k.discriminant) ++ be32 (lengthWord h.flags h.length) := by
  cases k <;> rfl

/-- Settles O5: each of the three layouts is two words, and the decoder finds in them the fields that were put there. -/
theorem encodedHeadersDecodeBack : Obligations.EncodedHeadersDecodeBack := by
  unfold Obligations.EncodedHeadersDecodeBack
  intro i rest hi hwf
  obtain ⟨k, h, rfl⟩ | ⟨h, rfl⟩ | ⟨h, rfl⟩ := Instr.cases_of_isRead hi
  · rw [ControlKind.encode_readInstr, decode_words, decodeHeader_control]
  · rw [encode, dataHeaderBytes, decode_words, decodeHeader_data]
  · rw [encode, controlHeaderBytes, decode_words, decodeHeader_unknown _ _ _ _ hwf]

/-! ## What two header words are (R85, R100, R104) -/

/-- A control word whose type is a variant's is that variant's header. -/
theorem decodeHeader_of_ofType {w0 : Word} {k : ControlKind} (hc : controlBit w0 = true)
    (hk : ControlKind.ofType (typeOf w0).toNat = some k) (w1 : Word) :
    decodeHeader w0 w1 = k.readInstr ⟨versionOf w0, flagsOf w1, lengthOf w1⟩ := by
  rw [decodeHeader, if_pos hc, hk]
  cases k <;> rfl

/-- A control word whose type is no variant's is an unknown control header (R104). -/
theorem decodeHeader_of_ofType_none {w0 : Word} (hc : controlBit w0 = true)
    (hk : ControlKind.ofType (typeOf w0).toNat = none) (w1 : Word) :
    decodeHeader w0 w1 = .unknownControlType (.read ⟨versionOf w0, typeOf w0, flagsOf w1, lengthOf w1⟩) := by
  rw [decodeHeader, if_pos hc, hk]

/-- A word with the control bit clear begins a data header (R83). -/
theorem decodeHeader_of_data {w0 : Word} (hc : controlBit w0 = false) (w1 : Word) :
    decodeHeader w0 w1 = .data (.read ⟨get31 w0, flagsOf w1, lengthOf w1⟩) := by
  rw [decodeHeader, if_neg (by simp [hc])]

/-- Whatever two words hold, they are a well-formed header form, and its encoding is the two words. -/
theorem decodeHeader_encodes (w0 w1 : Word) :
    (decodeHeader w0 w1).isRead = true ∧ (decodeHeader w0 w1).wellFormed = true ∧
      encode (decodeHeader w0 w1) = be32 w0 ++ be32 w1 := by
  cases hc : controlBit w0 with
  | false =>
    rw [decodeHeader_of_data hc]
    refine ⟨rfl, rfl, ?_⟩
    rw [encode, dataHeaderBytes, dataWord_fields w0 hc, lengthWord_fields]
  | true =>
    cases hk : ControlKind.ofType (typeOf w0).toNat with
    | some k =>
      rw [decodeHeader_of_ofType hc hk]
      refine ⟨k.isRead_readInstr _, k.wellFormed_readInstr _, ?_⟩
      rw [ControlKind.encode_readInstr, ← ControlKind.discriminant_of_ofType hk, controlWord_fields w0 hc,
        lengthWord_fields]
    | none =>
      rw [decodeHeader_of_ofType_none hc hk]
      refine ⟨rfl, ControlKind.ofType_eq_none.mp hk, ?_⟩
      rw [encode, controlHeaderBytes, controlWord_fields w0 hc, lengthWord_fields]

/-- What the decoder accepts is two words and what it leaves (R80). -/
theorem decode_eq_ok {bs rest : Bytes} {i : Instr} (h : decode bs = .ok (i, rest)) :
    ∃ w0 w1, bs = be32 w0 ++ be32 w1 ++ rest ∧ i = decodeHeader w0 w1 := by
  unfold decode at h
  split at h
  · cases h
  · rename_i w0 rest0 h0
    split at h
    · cases h
    · rename_i w1 rest1 h1
      cases h
      exact ⟨w0, w1, by rw [eq_be32_of_get32 h0, eq_be32_of_get32 h1, List.append_assoc], rfl⟩

/-- Settles O6: the two words the decoder reads are the encoding of the header form they are. -/
theorem decodedHeadersEncodeBack : Obligations.DecodedHeadersEncodeBack := by
  unfold Obligations.DecodedHeadersEncodeBack
  intro bs i rest h
  obtain ⟨w0, w1, rfl, rfl⟩ := decode_eq_ok h
  obtain ⟨hread, hwf, henc⟩ := decodeHeader_encodes w0 w1
  exact ⟨hread, hwf, by rw [henc]⟩

/-! ## The masks of the opcode map (R100) -/

/-- The mask of bit 31 leaves the control bit (R85). -/
theorem and_controlMask (w : Word) : w &&& 0x80000000#32 = if controlBit w then 0x80000000#32 else 0 := by
  apply BitVec.eq_of_getLsbD_eq
  intro i hi
  cases hc : controlBit w
  all_goals
    simp only [controlBit, BitVec.getLsbD_eq_getElem, Nat.reduceLT] at hc
    interval_cases i <;> simp [hc]

theorem controlBit_eq_true_iff {w : Word} : controlBit w = true ↔ w &&& 0x80000000#32 = 0x80000000#32 := by
  rw [and_controlMask]; cases controlBit w <;> simp

theorem controlBit_eq_false_iff {w : Word} : controlBit w = false ↔ w &&& 0x80000000#32 = 0 := by
  rw [and_controlMask]; cases controlBit w <;> simp

/-- The mask 0x0000FFFF leaves the type (R81). -/
theorem and_typeMask (w : Word) : w &&& 0xFFFF#32 = (typeOf w).setWidth 32 := by
  apply BitVec.eq_of_getLsbD_eq
  intro i hi
  interval_cases i <;> simp [typeOf]

/-- The mask 0x8000FFFF leaves the control bit and the type, whatever the version (R100, R106). -/
theorem control_and_type_of_mask {w : Word} {t : BitVec 16} (h : w &&& 0x8000FFFF#32 = controlWord 0 t) :
    controlBit w = true ∧ typeOf w = t := by
  have hc : controlBit (w &&& 0x8000FFFF#32) = controlBit w := by simp [controlBit]
  have ht : typeOf (w &&& 0x8000FFFF#32) = typeOf w := by
    apply BitVec.eq_of_getLsbD_eq
    intro i hi
    interval_cases i <;> simp [typeOf]
  rw [← hc, ← ht, h]
  exact ⟨controlBit_controlWord 0 t, typeOf_controlWord 0 t⟩

/-- A match value of the opcode map selects its row (R100). -/
theorem decodeHeader_of_mask (k : ControlKind) {w0 w1 : Word}
    (h : w0 &&& 0x8000FFFF#32 = controlWord 0 k.discriminant) :
    decodeHeader w0 w1 = k.readInstr ⟨versionOf w0, flagsOf w1, lengthOf w1⟩ := by
  obtain ⟨hc, ht⟩ := control_and_type_of_mask h
  exact decodeHeader_of_ofType hc (ht ▸ k.ofType_discriminant) w1

/-- A word that has none of the eight types selects no variant (R104). -/
theorem ofType_typeOf_eq_none {w : Word} (h : ∀ t ∈ [1, 2, 3, 4, 6, 7, 8, 9], w &&& 0xFFFF#32 ≠ BitVec.ofNat 32 t) :
    ControlKind.ofType (typeOf w).toNat = none := by
  rw [Option.eq_none_iff_forall_ne_some]
  intro k hk
  refine h k.discriminant.toNat (by cases k <;> decide) ?_
  rw [and_typeMask, ControlKind.discriminant_of_ofType hk]
  cases k <;> rfl

/-- Settles O4: the masks leave the control bit and the type, on which alone the decoder's choice rests. -/
theorem variantSelectionFollowsTheMasks : Obligations.VariantSelectionFollowsTheMasks := by
  unfold Obligations.VariantSelectionFollowsTheMasks
  intro w0 w1
  exact ⟨decodeHeader_of_mask .synStream, decodeHeader_of_mask .synReply, decodeHeader_of_mask .rstStream,
    decodeHeader_of_mask .settings, decodeHeader_of_mask .ping, decodeHeader_of_mask .goAway,
    decodeHeader_of_mask .headers, decodeHeader_of_mask .windowUpdate,
    fun h => decodeHeader_of_data (controlBit_eq_false_iff.mpr h) w1,
    fun h ht => decodeHeader_of_ofType_none (controlBit_eq_true_iff.mpr h) (ofType_typeOf_eq_none ht) w1⟩

/-- Settles O7: the words are the encodings of the header forms they stand for, so the round trip reads them back. -/
theorem sampleWordsDecode : Obligations.SampleWordsDecode := by
  unfold Obligations.SampleWordsDecode
  exact ⟨encodedHeadersDecodeBack (.synStream (.read ⟨3, 2, 32⟩)) [] rfl rfl,
    encodedHeadersDecodeBack (.ping (.read ⟨2, 0, 4⟩)) [0xAA#8] rfl rfl,
    encodedHeadersDecodeBack (.data (.read ⟨1, 1, 0⟩)) [] rfl rfl,
    encodedHeadersDecodeBack (.unknownControlType (.read ⟨0x7FFF, 0xFFFF, 1, 0⟩)) [] rfl rfl, rfl⟩

/-! ## Packed operand fields (R96, R97) -/

/-- The priority stands in bits 7:5 of its byte (R96). -/
theorem toNat_priorityByte {p : Nat} (h : p < 8) : (priorityByte p).toNat = 32 * p := by
  simp [priorityByte, byte, Nat.shiftLeft_eq]
  omega

theorem toNat_priorityOf (b : Byte) : (priorityOf b).toNat = b.toNat / 32 := by
  simp [priorityOf, Nat.shiftRight_eq_div_pow]
  omega

/-- Settles O8: a shift by five is a product with 32 on emit, and the top three bits are a quotient by 32 on parse. -/
theorem priorityOccupiesTheTopThreeBits : Obligations.PriorityOccupiesTheTopThreeBits := by
  unfold Obligations.PriorityOccupiesTheTopThreeBits
  exact ⟨fun _ => toNat_priorityByte, toNat_priorityOf⟩

theorem toNat_put31 (w : Word) : (put31 w).toNat = w.toNat % 2 ^ 31 := by
  rw [put31, BitVec.toNat_and, show (0x7FFFFFFF#32).toNat = 2 ^ 31 - 1 from rfl, Nat.and_two_pow_sub_one_eq_mod]

theorem toNat_get31 (w : Word) : (get31 w).toNat = w.toNat % 2 ^ 31 := by
  simp [get31]

/-- get31 does not see the reserved bit (R97). -/
theorem get31_or_reservedBit (w : Word) : get31 (w ||| 0x80000000#32) = get31 w := by
  apply BitVec.eq_of_getLsbD_eq
  intro i hi
  interval_cases i <;> simp [get31]

/-- Settles O9: both masks are a remainder modulo 2^31, and the bit the mask drops cannot be seen. -/
theorem reservedBitIsClearedAndMasked : Obligations.ReservedBitIsClearedAndMasked := by
  unfold Obligations.ReservedBitIsClearedAndMasked
  exact fun w => ⟨toNat_put31 w, toNat_get31 w, get31_or_reservedBit w⟩

/-! ## The limits of R102 -/

theorem fits_eq_false {w v : Nat} : fits w v = false ↔ 2 ^ w ≤ v := by
  simp [fits]

theorem unknownType_eq_false {t : Nat} : unknownType t = false ↔ t ∈ [1, 2, 3, 4, 6, 7, 8, 9] := by
  simp [unknownType]
  omega

theorem HeaderEntry.wellFormed_eq_false {e : HeaderEntry} :
    e.wellFormed = false ↔ 2 ^ 32 ≤ e.name.length ∨ 2 ^ 32 ≤ (joinNul e.values).length := by
  simp only [HeaderEntry.wellFormed, Bool.and_eq_false_iff, fits_eq_false, Machine.length_joinNul]

theorem headerListWellFormed_eq_false {hl : HeaderList} : headerListWellFormed hl = false ↔ Machine.overLimits hl := by
  simp only [headerListWellFormed, Bool.and_eq_false_iff, fits_eq_false, List.all_eq_false, Bool.not_eq_true,
    HeaderEntry.wellFormed_eq_false, Machine.overLimits]

theorem SettingsCmdEntry.wellFormed_eq_false {e : SettingsCmdEntry} :
    e.wellFormed = false ↔ 2 ^ 8 ≤ e.flag ∨ 2 ^ 24 ≤ e.id ∨ 2 ^ 32 ≤ e.value := by
  simp only [SettingsCmdEntry.wellFormed, Bool.and_eq_false_iff, fits_eq_false, or_assoc]

theorem SynStreamCmd.wellFormed_eq_false (f : SynStreamCmd) :
    f.wellFormed = false ↔
      2 ^ 8 ≤ f.flags ∨ 2 ^ 32 ≤ f.streamId ∨ 2 ^ 32 ≤ f.associatedStreamId ∨ 8 ≤ f.priority ∨ 2 ^ 8 ≤ f.slot ∨
        Machine.overLimits f.headers := by
  simp only [SynStreamCmd.wellFormed, Bool.and_eq_false_iff, fits_eq_false, headerListWellFormed_eq_false, or_assoc,
    Nat.reducePow]

theorem SynReplyCmd.wellFormed_eq_false (f : SynReplyCmd) :
    f.wellFormed = false ↔ 2 ^ 8 ≤ f.flags ∨ 2 ^ 32 ≤ f.streamId ∨ Machine.overLimits f.headers := by
  simp only [SynReplyCmd.wellFormed, Bool.and_eq_false_iff, fits_eq_false, headerListWellFormed_eq_false, or_assoc]

theorem RstStreamCmd.wellFormed_eq_false (f : RstStreamCmd) :
    f.wellFormed = false ↔ 2 ^ 8 ≤ f.flags ∨ 2 ^ 32 ≤ f.streamId ∨ 2 ^ 32 ≤ f.status := by
  simp only [RstStreamCmd.wellFormed, Bool.and_eq_false_iff, fits_eq_false, or_assoc]

theorem SettingsCmd.wellFormed_eq_false (f : SettingsCmd) :
    f.wellFormed = false ↔
      2 ^ 8 ≤ f.flags ∨ 2 ^ 32 ≤ f.entries.length ∨
        ∃ e ∈ f.entries, 2 ^ 8 ≤ e.flag ∨ 2 ^ 24 ≤ e.id ∨ 2 ^ 32 ≤ e.value := by
  simp only [SettingsCmd.wellFormed, Bool.and_eq_false_iff, fits_eq_false, List.all_eq_false, Bool.not_eq_true,
    SettingsCmdEntry.wellFormed_eq_false, or_assoc]

theorem PingCmd.wellFormed_eq_false (f : PingCmd) : f.wellFormed = false ↔ 2 ^ 8 ≤ f.flags ∨ 2 ^ 32 ≤ f.id := by
  simp only [PingCmd.wellFormed, Bool.and_eq_false_iff, fits_eq_false]

theorem GoAwayCmd.wellFormed_eq_false (f : GoAwayCmd) :
    f.wellFormed = false ↔ 2 ^ 8 ≤ f.flags ∨ 2 ^ 32 ≤ f.lastGoodStreamId ∨ 2 ^ 32 ≤ f.status := by
  simp only [GoAwayCmd.wellFormed, Bool.and_eq_false_iff, fits_eq_false, or_assoc]

theorem HeadersCmd.wellFormed_eq_false (f : HeadersCmd) :
    f.wellFormed = false ↔ 2 ^ 8 ≤ f.flags ∨ 2 ^ 32 ≤ f.streamId ∨ Machine.overLimits f.headers := by
  simp only [HeadersCmd.wellFormed, Bool.and_eq_false_iff, fits_eq_false, headerListWellFormed_eq_false, or_assoc]

theorem WindowUpdateCmd.wellFormed_eq_false (f : WindowUpdateCmd) :
    f.wellFormed = false ↔ 2 ^ 8 ≤ f.flags ∨ 2 ^ 32 ≤ f.streamId ∨ 2 ^ 32 ≤ f.deltaWindowSize := by
  simp only [WindowUpdateCmd.wellFormed, Bool.and_eq_false_iff, fits_eq_false, or_assoc]

theorem DataCmd.wellFormed_eq_false (f : DataCmd) : f.wellFormed = false ↔ 2 ^ 32 ≤ f.streamId ∨ 2 ^ 8 ≤ f.flags := by
  simp only [DataCmd.wellFormed, Bool.and_eq_false_iff, fits_eq_false]

theorem UnknownCmd.wellFormed_eq_false (f : UnknownCmd) :
    f.wellFormed = false ↔ 2 ^ 16 ≤ f.kindCode ∨ f.kindCode ∈ [1, 2, 3, 4, 6, 7, 8, 9] := by
  simp only [UnknownCmd.wellFormed, Bool.and_eq_false_iff, fits_eq_false, unknownType_eq_false]

/-- A kind code of more than 16 bits names no variant, so the port hands it on as it is (R102, R104). -/
theorem Command.toInstr_control_of_wide {f : UnknownCmd} (h : 2 ^ 16 ≤ f.kindCode) :
    (Command.control f).toInstr = .unknownControlType (.write f) := by
  have hnone : ControlKind.ofType f.kindCode = none :=
    ControlKind.ofType_eq_none.mpr (by simp [unknownType]; omega)
  simp only [Command.toInstr, hnone]

end Sys2Proof

namespace Sys2Proof.Machine

/-- On a live block with a READY write half, the refusal says that the command is not well-formed, and nothing else does
(R329). -/
theorem exec_notWellFormed_iff {i : Instr} {s : State} (hi : i.isRead = false) (hs : s.canWrite) :
    exec i s = .refused .notWellFormed ↔ i.wellFormed = false := by
  rw [exec_write hi]
  cases hwf : i.wellFormed with
  | false => simp [writeFrame, hs.1, hs.2]
  | true =>
    rw [writeFrame_runs _ hs]
    cases writeRule Config.engine s.cfg i s.wh <;> simp

/-- Settles O37: the refusal is the failure of the well-formedness check, which is a disjunction of limits for each command. -/
theorem illFormedCommandsAreRefused : Obligations.IllFormedCommandsAreRefused := by
  unfold Obligations.IllFormedCommandsAreRefused
  intro s hs
  have refused {i : Instr} (hi : i.isRead = false) := exec_notWellFormed_iff hi hs
  refine ⟨fun f => (refused rfl).trans f.wellFormed_eq_false, fun f => (refused rfl).trans f.wellFormed_eq_false,
    fun f => (refused rfl).trans f.wellFormed_eq_false, fun f => (refused rfl).trans f.wellFormed_eq_false,
    fun f => (refused rfl).trans f.wellFormed_eq_false, fun f => (refused rfl).trans f.wellFormed_eq_false,
    fun f => (refused rfl).trans f.wellFormed_eq_false, fun f => (refused rfl).trans f.wellFormed_eq_false,
    fun f => (refused rfl).trans f.wellFormed_eq_false, fun f => (refused rfl).trans f.wellFormed_eq_false,
    fun f h => ?_⟩
  rw [Command.toInstr_control_of_wide h, refused rfl]
  exact f.wellFormed_eq_false.mpr (.inl h)

end Sys2Proof.Machine

namespace Sys2Proof

/-! # The frame-header family: unknown kinds, short headers, and which instruction a step runs -/

/-- A kind code that selects no variant is handed on as it is (R104, R121). -/
theorem Command.toInstr_control_of_ofType_none {f : UnknownCmd} (h : ControlKind.ofType f.kindCode = none) :
    (Command.control f).toInstr = .unknownControlType (.write f) := by
  simp only [Command.toInstr, h]

/-- The decoder reads the front of the bytes: what follows the two words is left with the rest. -/
theorem decode_append {bs rest : Bytes} {i : Instr} (h : decode bs = .ok (i, rest)) (more : Bytes) :
    decode (bs ++ more) = .ok (i, rest ++ more) := by
  obtain ⟨w0, w1, rfl, rfl⟩ := decode_eq_ok h
  rw [List.append_assoc, decode_words]

theorem decodeTableWord_eq_some {nbits w : Nat} {i : Instr} (h : decodeTableWord nbits w = some i) :
    ∃ rest, decode (tableBytes nbits w) = .ok (i, rest) := by
  unfold decodeTableWord at h
  split at h
  · cases h; exact ⟨_, ‹_›⟩
  · cases h

end Sys2Proof

namespace Sys2Proof.Machine

/-! ## Unknown kinds (R121, R131) -/

/-- Settles O24: the kind code selects no variant, so the rule that runs is the one that raises and touches no port. -/
theorem unknownKindWriteOutcome : Obligations.UnknownKindWriteOutcome := by
  unfold Obligations.UnknownKindWriteOutcome
  intro f s hs hfits hkind
  have hunknown : unknownType f.kindCode = true := by
    rw [← Bool.not_eq_false, unknownType_eq_false]; exact hkind
  have hwf : (Instr.unknownControlType (.write f)).wellFormed = true := by
    rw [Instr.wellFormed, UnknownCmd.wellFormed, hunknown, fits, decide_eq_true hfits, Bool.and_true]
  rw [Command.toInstr_control_of_ofType_none (ControlKind.ofType_eq_none.mpr hunknown), exec_write rfl, hwf]
  exact writeFrame_answers hs rfl

/-- READ_FRAME runs the instruction the source's bytes decode to (R130). -/
theorem readStep_of_decode {s : State} {i : Instr} {rest : Bytes} (h : decode s.rh.source.bytes = .ok (i, rest)) :
    readStep s = exec i s := by
  rw [readStep, h]

/-- READ_FRAME of a source whose two header words are there answers what its rule does after them (R130). -/
theorem readFrame_of_words {s : State} {rule : ReadHalf → Option ReadHalf} {w0 w1 : Word} {rest : Bytes} {rh : ReadHalf}
    (hs : s.canRead) (hb : s.rh.source.bytes = be32 w0 ++ be32 w1 ++ rest) (h : rule (s.rh.consumeTo rest) = some rh) :
    readFrame rule s = .next { s with rh := rh } :=
  readFrame_answers hs ((readHeader_words s.rh rule hb).trans h)

/-- A result after the bytes before `rest`, the half READY. -/
theorem State.finish_consumeTo {s : State} {pre rest : Bytes} (h : s.rh.source.bytes = pre ++ rest) (r : RResult) :
    { s with rh := (s.rh.consumeTo rest).finish r } = s.readEnded pre.length r := by
  rw [consumeTo_append h]; rfl

/-- An error with sid 0 after the bytes before `rest`, the half BROKEN. -/
theorem State.breakHalf_consumeTo {s : State} {pre rest : Bytes} (h : s.rh.source.bytes = pre ++ rest) (st : Status) :
    { s with rh := (s.rh.consumeTo rest).breakHalf.raise st 0 [] } = s.readBroke pre.length st := by
  rw [consumeTo_append h]; rfl

/-- Settles O34: the header read consumes the two words, and the rule of an unknown type consumes nothing more. -/
theorem unknownTypeReadOutcome : Obligations.UnknownTypeReadOutcome := by
  unfold Obligations.UnknownTypeReadOutcome
  intro w0 w1 payload s hs hbytes hcontrol htype
  have hdecode : decode s.rh.source.bytes = .ok (decodeHeader w0 w1, payload) := by rw [hbytes, decode_words]
  rw [readStep_of_decode hdecode,
    decodeHeader_of_ofType_none (controlBit_eq_true_iff.mpr hcontrol) (ofType_typeOf_eq_none htype), exec_read rfl]
  have hended := State.finish_consumeTo hbytes (.raised .invalidControlFrame 0 [])
  exact hended ▸ readFrame_of_words hs hbytes rfl

/-! ## A source that ends within the header (R130) -/

/-- The header read of a source with less than a header asks for a word that is not there: the first, or the second. -/
theorem readHeader_short_cases {rh : ReadHalf} (k : ReadHalf → Option ReadHalf) (h : rh.source.bytes.length < 8) :
    get32 rh.source.bytes = none ∨
      ∃ rest, get32 (rh.consumeTo rest).source.bytes = none ∧ (rh.consumeTo rest).consumeTo [] = rh.consumeTo [] ∧
        readHeader rh k = read get32 (rh.consumeTo rest) fun _ rh => k rh := by
  cases hw : get32 rh.source.bytes with
  | none => exact .inl rfl
  | some wr =>
    have hlen := congrArg List.length (eq_be32_of_get32 hw)
    simp only [List.length_append, length_be32] at hlen
    exact .inr ⟨wr.2, get32_eq_none.mpr (by simp; omega), consumeTo_consumeTo _ _ _ (by omega) (by simp),
      readHeader_of_word k hw⟩

/-- The end of the source after the first byte of a header breaks the half (R130). -/
theorem readHeader_eof {rh : ReadHalf} (k : ReadHalf → Option ReadHalf) (h : rh.source.bytes.length < 8)
    (hne : rh.source.bytes ≠ []) (he : rh.source.ending = .eof) :
    readHeader rh k = some ((rh.consumeTo []).breakHalf.raise (.ioError .unexpectedEof) 0 []) := by
  obtain hn | ⟨rest, hn, hcons, hgo⟩ := readHeader_short_cases k h
  · obtain ⟨b, bs, hb⟩ := List.exists_cons_of_ne_nil hne
    rw [hb] at hn
    simp [readHeader, srcRead, hb, hn, he]
  · rw [hgo, read_eof _ hn he, hcons]

/-- A transport error within a header breaks the half, before its first byte too (R130). -/
theorem readHeader_error {rh : ReadHalf} (k : ReadHalf → Option ReadHalf) {e : Nat} (h : rh.source.bytes.length < 8)
    (he : rh.source.ending = .error e) :
    readHeader rh k = some ((rh.consumeTo []).breakHalf.raise (.ioError (.transport e)) 0 []) := by
  obtain hn | ⟨rest, hn, hcons, hgo⟩ := readHeader_short_cases k h
  · simp [readHeader, srcRead, hn, he]
  · rw [hgo, read_error _ hn he, hcons]

/-- The clean end of the source before the first byte of a header (R130). -/
theorem readHeader_endOfStream {rh : ReadHalf} (k : ReadHalf → Option ReadHalf) (hb : rh.source.bytes = [])
    (he : rh.source.ending = .eof) : readHeader rh k = some ((rh.consumeTo []).raise .endOfStream 0 []) := by
  simp [readHeader, srcRead, hb, get32, he]

/-- READ_FRAME of fewer than eight bytes ends in the header read, before any rule. -/
theorem readStep_of_short {s : State} {rh : ReadHalf} (hs : s.canRead) (hlen : s.rh.source.bytes.length < 8)
    (h : readHeader s.rh (fun _ => none) = some rh) : readStep s = .next { s with rh := rh } := by
  obtain ⟨e, he⟩ := decode_short hlen
  rw [readStep, he]
  exact readFrame_answers hs h

/-- Settles O35: the word that is not there is met by the clean end, by the end inside the header, or by the transport error. -/
theorem truncatedHeaderOutcome : Obligations.TruncatedHeaderOutcome := by
  unfold Obligations.TruncatedHeaderOutcome
  intro s hs hlen
  have hall : s.rh.source.bytes = s.rh.source.bytes ++ [] := (List.append_nil _).symm
  refine ⟨fun hnil heof => ?_, fun hne => ⟨fun heof => ?_, fun e herr => ?_⟩⟩
  · rw [readStep_of_short hs hlen (readHeader_endOfStream _ hnil heof)]
    exact congrArg _ (State.finish_consumeTo (pre := []) hnil _)
  · have hbytes : s.rh.source.bytes ≠ [] := hne.resolve_right (not_not.mpr heof)
    rw [readStep_of_short hs hlen (readHeader_eof _ hlen hbytes heof), State.breakHalf_consumeTo hall]
  · rw [readStep_of_short hs hlen (readHeader_error _ hlen herr), State.breakHalf_consumeTo hall]

/-! ## What a step runs (R120, R130, R337) -/

theorem step_of_turn {s : State} {a : Agent} {rest : List Agent} (h : s.turns = a :: rest) :
    step s = agentStep a { s with turns := rest } := by
  rw [step, h]

theorem step_of_noTurn {s : State} (h : s.turns = []) : step s = defaultStep s := by
  rw [step, h]

/-- The turn of a read half with an operation in progress. -/
theorem agentStep_read {s : State} (h : s.rh.request = true) : agentStep (.half .read) s = readStep s := if_pos h

/-- The turn of a write half with an operation in progress. -/
theorem agentStep_write {s : State} {f : Command} (h : s.wh.request = some f) :
    agentStep (.half .write) s = exec f.toInstr s := by
  rw [agentStep, h]; rfl

/-- How a step without a named turn, ending in `result`, goes on from a half's `outcome`: to `next` when the half `waits`, and no
further otherwise. -/
structure GoesOn (outcome result next : Host.Outcome State Fault Refusal) (waits : State → Prop) : Prop where
  answers (t : State) (h : outcome = .next t) (hw : ¬ waits t) : result = .next t
  passes (t : State) (h : outcome = .next t) (hw : waits t) : result = next
  fault (r : Fault) (h : outcome = .fault r) : result = .fault r
  refused (r : Refusal) (h : outcome = .refused r) : result = .refused r

/-- With a READ_FRAME in progress the read half moves first (log 13). -/
theorem defaultStep_goesOn {s : State} (hreq : s.rh.request = true) :
    GoesOn (readStep s) (defaultStep s) (writeOrHostStep s) (fun t => t.rh.request = true) where
  answers t h hw := by rw [defaultStep, if_pos hreq, h]; exact if_neg hw
  passes t h hw := by rw [defaultStep, if_pos hreq, h]; exact if_pos hw
  fault r h := by rw [defaultStep, if_pos hreq, h]
  refused r h := by rw [defaultStep, if_pos hreq, h]

/-- Without a READ_FRAME in progress the write half or the host moves (log 13). -/
theorem defaultStep_of_noRead {s : State} (h : s.rh.request = false) : defaultStep s = writeOrHostStep s :=
  if_neg (by simp [h])

/-- With a WRITE_FRAME in progress the write half moves before the host (log 13). -/
theorem writeOrHostStep_goesOn {s : State} {f : Command} (hreq : s.wh.request = some f) :
    GoesOn (exec f.toInstr s) (writeOrHostStep s) (hostStep s) (fun t => t.wh.request.isSome = true) where
  answers t h hw := by simp only [writeOrHostStep, hreq, writeStep, h]; exact if_neg hw
  passes t h hw := by simp only [writeOrHostStep, hreq, writeStep, h]; exact if_pos hw
  fault r h := by simp only [writeOrHostStep, hreq, writeStep, h]
  refused r h := by simp only [writeOrHostStep, hreq, writeStep, h]

/-- Settles O46: READ_FRAME runs the decoded instruction, by a named turn or as the first half that can move. -/
theorem stepRunsTheDecodedInstruction : Obligations.StepRunsTheDecodedInstruction := by
  unfold Obligations.StepRunsTheDecodedInstruction
  intro s i rest hreq hdecode
  refine ⟨fun ts hts => ?_, fun hnone => ?_⟩
  · rw [step_of_turn hts, agentStep_read (s := { s with turns := ts }) hreq]
    exact readStep_of_decode hdecode
  · obtain ⟨answers, passes, fault, refused⟩ := readStep_of_decode hdecode ▸ defaultStep_goesOn hreq
    rw [step_of_noTurn hnone]
    exact ⟨fun t h hdone => answers t h (by simp [hdone]), passes, fault, refused⟩

/-- Settles O47: WRITE_FRAME runs its command's instruction, by a named turn or when the read half has nothing to do. -/
theorem stepRunsTheCommand : Obligations.StepRunsTheCommand := by
  unfold Obligations.StepRunsTheCommand
  intro s f hreq
  refine ⟨fun ts hts => ?_, fun hnone hread => ?_⟩
  · rw [step_of_turn hts, agentStep_write (s := { s with turns := ts }) hreq]
  · obtain ⟨answers, passes, fault, refused⟩ := writeOrHostStep_goesOn hreq
    rw [step_of_noTurn hnone, defaultStep_of_noRead hread]
    exact ⟨fun t h hdone => answers t h (by simp [hdone]),
      fun t h hbusy => passes t h (Option.isSome_iff_ne_none.mpr hbusy), fault, refused⟩

/-- A placed table word is what the decoder reads from the source (log 22). -/
theorem decode_withFetchWord {nbits w : Nat} {i : Instr} (h : decodeTableWord nbits w = some i) (s : State) :
    ∃ rest, decode (s.withFetchWord nbits w).rh.source.bytes = .ok (i, rest) := by
  obtain ⟨rest, hdecode⟩ := decodeTableWord_eq_some h
  exact ⟨_, decode_append (decode_append hdecode _) _⟩

/-- Settles O48: placing a word puts a READ_FRAME in progress with no turn named, so O46 says what the step runs. -/
theorem placedWordIsRunNext : Obligations.PlacedWordIsRunNext := by
  unfold Obligations.PlacedWordIsRunNext
  intro s nbits w i t hword hexec hdone
  obtain ⟨rest, hdecode⟩ := decode_withFetchWord hword s
  have hnoTurn := (stepRunsTheDecodedInstruction (s.withFetchWord nbits w) i rest rfl hdecode).2 rfl
  obtain ⟨answers, _⟩ := hnoTurn
  exact answers t hexec hdone

end Sys2Proof.Machine

namespace Sys2Proof.Machine

/-! # The header-block family: what a block serializes to, parses to, and how the engines carry it -/

/-! ## Lowercasing and the banned sets (R152, R160) -/

theorem lowerByte_eq (b : Byte) :
    lowerByte b = if 0x41 ≤ b.toNat ∧ b.toNat ≤ 0x5A then b + 0x20#8 else b := by
  simp [lowerByte, BitVec.le_def]

/-- Settles O11: lower is a map over the bytes, and a byte it has changed lies outside the range it changes. -/
theorem lowercasingIsAsciiAndIdempotent : Obligations.LowercasingIsAsciiAndIdempotent := by
  unfold Obligations.LowercasingIsAsciiAndIdempotent
  intro bs
  refine ⟨length_lower bs, fun n b hb => ?_, lower_lower bs⟩
  rw [lower, List.getElem?_map, hb, Option.map_some, lowerByte_eq]

theorem hasBanned_iff (set : BannedSet) (m : HeaderMap) : hasBanned set m = true ↔ ∃ e ∈ m, e.name ∈ set.names := by
  simp only [hasBanned, List.any_eq_true, List.contains_iff_mem]

/-- Settles O12: the texts and the byte lists are compared as they stand; the check is a search for one of them. -/
theorem bannedSetsAreThoseOfR160 : Obligations.BannedSetsAreThoseOfR160 := by
  unfold Obligations.BannedSetsAreThoseOfR160
  exact ⟨by decide, by decide, hasBanned_iff⟩

/-! ## Split and join (R153) -/

/-- join is the library's join with the separator NUL. -/
theorem joinNul_eq_intercalate (vs : List Bytes) : joinNul vs = [0x00#8].intercalate vs := by
  induction vs with
  | nil => rfl
  | cons v vs ih =>
    cases vs with
    | nil => simp [joinNul]
    | cons w vs => simp [joinNul, ih, List.intercalate_cons_cons]

@[simp] theorem splitNul_ne_nil (bs : Bytes) : splitNul bs ≠ [] := by
  cases bs with
  | nil => simp [splitNul]
  | cons b bs =>
    simp only [splitNul]
    split
    · simp
    · split <;> simp

@[simp] theorem splitNul_nul_cons (bs : Bytes) : splitNul (0x00#8 :: bs) = [] :: splitNul bs := by simp [splitNul]

/-- A byte other than NUL goes to the first piece. -/
theorem splitNul_cons_of_ne {b : Byte} (h : b ≠ 0x00#8) (bs : Bytes) :
    splitNul (b :: bs) = (splitNul bs).modifyHead (b :: ·) := by
  rw [splitNul, if_neg h]
  cases hs : splitNul bs with
  | nil => exact absurd hs (splitNul_ne_nil bs)
  | cons v vs => rfl

/-- split is the library's split at NUL. -/
theorem splitNul_eq_splitOn (bs : Bytes) : splitNul bs = bs.splitOn 0x00#8 := by
  induction bs with
  | nil => rfl
  | cons b bs ih =>
    rw [List.splitOn_cons_eq_if_modifyHead]
    by_cases h : b = 0x00#8
    · simp [h, ih]
    · simp [h, ih, splitNul_cons_of_ne]

@[simp] theorem joinNul_splitNul (bs : Bytes) : joinNul (splitNul bs) = bs := by
  rw [joinNul_eq_intercalate, splitNul_eq_splitOn, List.intercalate_splitOn]

/-- No value holds the separator, so each comes back as one piece. -/
theorem splitNul_joinNul {vs : List Bytes} (hne : vs ≠ []) (h : ∀ v ∈ vs, 0x00#8 ∉ v) : splitNul (joinNul vs) = vs := by
  rw [joinNul_eq_intercalate, splitNul_eq_splitOn, List.splitOn_intercalate _ h hne]

theorem length_splitNul (bs : Bytes) : (splitNul bs).length = bs.count 0x00#8 + 1 := by
  induction bs with
  | nil => rfl
  | cons b bs ih =>
    by_cases h : b = 0x00#8
    · simp [h, ih]
    · simp [h, ih, splitNul_cons_of_ne]

theorem nul_not_mem_of_mem_splitNul {bs v : Bytes} (h : v ∈ splitNul bs) : 0x00#8 ∉ v := by
  induction bs generalizing v with
  | nil => simp_all [splitNul]
  | cons b bs ih =>
    by_cases hb : b = 0x00#8
    · subst hb
      rw [splitNul_nul_cons, List.mem_cons] at h
      obtain rfl | h := h
      · simp
      · exact ih h
    · rw [splitNul_cons_of_ne hb] at h
      cases hs : splitNul bs with
      | nil => exact absurd hs (splitNul_ne_nil bs)
      | cons w ws =>
        rw [hs, List.modifyHead_cons, List.mem_cons] at h
        obtain rfl | h := h
        · simpa [Ne.symm hb] using ih (v := w) (by simp [hs])
        · exact ih (by simp [hs, h])

/-- Settles O10: split and join are the library's at NUL; what split gives is never empty and holds no NUL, so those two
conditions are necessary for a list to come back. -/
theorem splitAndJoinOnNul : Obligations.SplitAndJoinOnNul := by
  unfold Obligations.SplitAndJoinOnNul
  refine ⟨rfl, fun _ => rfl, fun v w vs => by simp [joinNul], rfl,
    fun bs => ⟨joinNul_splitNul bs, length_splitNul bs, fun v => nul_not_mem_of_mem_splitNul⟩,
    fun vs => ⟨fun h => ?_, fun ⟨hne, h⟩ => splitNul_joinNul hne h⟩⟩
  rw [← h]
  exact ⟨splitNul_ne_nil _, fun v => nul_not_mem_of_mem_splitNul⟩

/-! ## Readers of a front part (R98, R154) -/

/-- A reader that answers has looked at the front of the bytes only: more bytes behind are left with the rest. -/
def ReadsFront {α : Type} (p : Bytes → Option (α × Bytes)) : Prop :=
  ∀ ⦃bs a rest⦄, p bs = some (a, rest) → ∀ more, p (bs ++ more) = some (a, rest ++ more)

theorem get32_readsFront : ReadsFront get32 := by
  intro bs w rest h more
  rw [eq_be32_of_get32 h, List.append_assoc, get32_be32_append]

theorem getBytes_readsFront (n : Nat) : ReadsFront (getBytes n) := by
  intro bs a rest h more
  obtain ⟨rfl, hlen⟩ := getBytes_eq_some h
  rw [List.append_assoc, getBytes_append hlen]

theorem getCounted_readsFront : ReadsFront getCounted := by
  intro bs a rest h more
  unfold getCounted at h ⊢
  cases hn : get32 bs with
  | none => simp [hn] at h
  | some nr =>
    simp only [hn] at h
    simp only [get32_readsFront hn, getBytes_readsFront _ h]

theorem getWireEntry_readsFront : ReadsFront getWireEntry := by
  intro bs e rest h more
  unfold getWireEntry at h ⊢
  split at h
  · cases h
  · rename_i hname
    split at h
    · cases h
    · rename_i hval
      cases h
      simp only [getCounted_readsFront hname, getCounted_readsFront hval]

theorem getWireEntries_readsFront (n : Nat) : ReadsFront (getWireEntries n) := by
  induction n with
  | zero => intro bs es rest h more; cases h; rfl
  | succ n ih =>
    intro bs es rest h more
    unfold getWireEntries at h ⊢
    split at h
    · cases h
    · rename_i he
      split at h
      · cases h
      · rename_i hes
        cases h
        simp only [getWireEntry_readsFront he, ih hes]

theorem hbParse_readsFront (sid : StreamId) : ReadsFront (hbParse sid) := by
  intro bs acc rest h more
  unfold hbParse at h ⊢
  split at h
  · cases h
  · rename_i hn
    split at h
    · cases h
    · rename_i hes
      cases h
      simp only [get32_readsFront hn, getWireEntries_readsFront _ hes]

/-- A reader of the front that needs all of `bs` runs short on every proper front part of it. -/
theorem ReadsFront.none_of_prefix {α : Type} {p : Bytes → Option (α × Bytes)} (hp : ReadsFront p) {bs : Bytes} {a : α}
    (h : p bs = some (a, [])) {front : Bytes} (hpre : front <+: bs) (hne : front ≠ bs) : p front = none := by
  obtain ⟨more, rfl⟩ := hpre
  cases hf : p front with
  | none => rfl
  | some ar =>
    have hall := (hp hf more).symm.trans h
    simp only [Option.some.injEq, Prod.mk.injEq, List.append_eq_nil_iff] at hall
    obtain ⟨-, -, rfl⟩ := hall
    exact absurd (List.append_nil front).symm hne

/-! ## The map and the diagnostics of wire entries (R154 to R156) -/

/-- What HB_PARSE makes of wire entries: the fold of its turns from the empty map. -/
def blockOf (sid : StreamId) (es : List (Bytes × Bytes)) : BlockAcc := es.foldl (addEntry sid) ⟨[], []⟩

@[simp] theorem blockOf_nil (sid : StreamId) : blockOf sid [] = ⟨[], []⟩ := rfl

@[simp] theorem blockOf_append_singleton (sid : StreamId) (es : List (Bytes × Bytes)) (e : Bytes × Bytes) :
    blockOf sid (es ++ [e]) = addEntry sid (blockOf sid es) e := List.foldl_append ..

theorem hbParse_wireBlock_append (sid : StreamId) {es : List (Bytes × Bytes)} (h : wireFits es) (rest : Bytes) :
    hbParse sid (wireBlock es ++ rest) = some (blockOf sid es, rest) := by
  obtain ⟨hcount, hentries⟩ := h
  have hlen : (BitVec.ofNat 32 es.length).toNat = es.length := toNat_word hcount
  simp only [hbParse, wireBlock, List.append_assoc, get32_be32_append, hlen, getWireEntries_flatMap es rest hentries, blockOf]

/-- An entry whose lowercase name is there already (R156). -/
theorem addEntry_of_mem {sid : StreamId} {acc : BlockAcc} {e : Bytes × Bytes}
    (h : lower e.1 ∈ acc.map.map HeaderEntry.name) :
    addEntry sid acc e =
      ⟨appendValues (lower e.1) (splitNul e.2) acc.map, acc.diag ++ caseDiag sid e.1 ++ [⟨.duplicateHeaders, sid⟩]⟩ := by
  rw [addEntry, if_pos ((hasName_iff _ _).mpr h)]

/-- An entry whose lowercase name is new (R154). -/
theorem addEntry_of_not_mem {sid : StreamId} {acc : BlockAcc} {e : Bytes × Bytes}
    (h : lower e.1 ∉ acc.map.map HeaderEntry.name) :
    addEntry sid acc e = ⟨acc.map ++ [⟨lower e.1, splitNul e.2⟩], acc.diag ++ caseDiag sid e.1⟩ := by
  rw [addEntry, if_neg (mt (hasName_iff _ _).mp h)]

theorem names_addEntry (sid : StreamId) (acc : BlockAcc) (e : Bytes × Bytes) :
    (addEntry sid acc e).map.map HeaderEntry.name =
      acc.map.map HeaderEntry.name ++ (if lower e.1 ∈ acc.map.map HeaderEntry.name then [] else [lower e.1]) := by
  split
  · rw [addEntry_of_mem ‹_›, names_appendValues, List.append_nil]
  · rw [addEntry_of_not_mem ‹_›, List.map_append, List.map_singleton]

theorem diag_addEntry (sid : StreamId) (acc : BlockAcc) (e : Bytes × Bytes) :
    (addEntry sid acc e).diag =
      acc.diag ++ caseDiag sid e.1 ++
        (if lower e.1 ∈ acc.map.map HeaderEntry.name then [⟨.duplicateHeaders, sid⟩] else []) := by
  split
  · rw [addEntry_of_mem ‹_›]
  · rw [addEntry_of_not_mem ‹_›, List.append_nil]

/-- An entry of the map after one more turn: one that was there, with the new values behind its own when the name is its, or the
new one. -/
theorem mem_addEntry {sid : StreamId} {acc : BlockAcc} {e : Bytes × Bytes} {h : HeaderEntry}
    (hm : h ∈ (addEntry sid acc e).map) :
    (∃ h₀ ∈ acc.map, h₀.name = h.name ∧ h.values = h₀.values ++ if lower e.1 = h.name then splitNul e.2 else []) ∨
    (lower e.1 ∉ acc.map.map HeaderEntry.name ∧ h = ⟨lower e.1, splitNul e.2⟩) := by
  by_cases hn : lower e.1 ∈ acc.map.map HeaderEntry.name
  · rw [addEntry_of_mem hn, appendValues, List.mem_map] at hm
    obtain ⟨h₀, hm₀, rfl⟩ := hm
    refine .inl ⟨h₀, hm₀, ?_⟩
    by_cases hname : h₀.name = lower e.1
    · simp [hname]
    · simp [hname, Ne.symm hname]
  · rw [addEntry_of_not_mem hn, List.mem_append, List.mem_singleton] at hm
    obtain hm | rfl := hm
    · have hother : lower e.1 ≠ h.name := fun heq => hn (heq ▸ List.mem_map_of_mem hm)
      exact .inl ⟨h, hm, rfl, by simp [hother]⟩
    · exact .inr ⟨hn, rfl⟩

/-- The names of the map are the entries' names, lowercase. -/
theorem mem_names_blockOf {sid : StreamId} {es : List (Bytes × Bytes)} {n : Bytes} :
    n ∈ (blockOf sid es).map.map HeaderEntry.name ↔ n ∈ es.map fun x => lower x.1 := by
  induction es using List.reverseRecOn generalizing n with
  | nil => rfl
  | append_singleton es e ih =>
    rw [blockOf_append_singleton, names_addEntry, List.map_append, List.mem_append, List.mem_append, ih, List.map_singleton]
    split
    · rename_i hold
      have hagain : n ∈ [lower e.1] → n ∈ es.map fun x => lower x.1 := fun hn => List.mem_singleton.mp hn ▸ ih.mp hold
      simpa using hagain
    · rfl

/-- The values of a name of the map are those of all the entries of that name, in order (R156). -/
theorem values_blockOf {sid : StreamId} {es : List (Bytes × Bytes)} {h : HeaderEntry} (hm : h ∈ (blockOf sid es).map) :
    h.values = (es.filter fun x => lower x.1 = h.name).flatMap fun x => splitNul x.2 := by
  induction es using List.reverseRecOn generalizing h with
  | nil => cases hm
  | append_singleton es e ih =>
    rw [blockOf_append_singleton] at hm
    rw [List.filter_append, List.flatMap_append]
    obtain ⟨h₀, hm₀, hname, hvalues⟩ | ⟨hnew, rfl⟩ := mem_addEntry hm
    · rw [hvalues, ih hm₀, hname]
      congr 1
      split <;> simp [*]
    · have hnone : es.filter (fun x => lower x.1 = lower e.1) = [] := by
        rw [mem_names_blockOf, List.mem_map] at hnew
        exact List.filter_eq_nil_iff.mpr fun x hx => by simpa using fun heq => hnew ⟨x, hx, heq⟩
      simp [hnone]

/-- The map of wire entries is a HeaderMap (R150). -/
theorem isHeaderMap_blockOf (sid : StreamId) (es : List (Bytes × Bytes)) : IsHeaderMap (blockOf sid es).map :=
  IsHeaderMap.foldl_addEntry (acc := ⟨[], []⟩) ⟨List.nodup_nil, by simp⟩ sid es

/-- Settles O14: the parser reads entry by entry and only the front of its bytes, so a proper front part of a block runs short;
what one more entry does is one turn of the loop. -/
theorem blockEntriesGiveMapAndDiagnostics : Obligations.BlockEntriesGiveMapAndDiagnostics := by
  unfold Obligations.BlockEntriesGiveMapAndDiagnostics
  refine ⟨fun sid es rest hfits => ⟨hbParse_wireBlock_append sid hfits rest, fun n hn => ?_⟩, ?_⟩
  · have hwhole : hbParse sid (wireBlock es) = some (blockOf sid es, []) := by
      simpa using hbParse_wireBlock_append sid hfits []
    refine (hbParse_readsFront sid).none_of_prefix hwhole (List.take_prefix _ _) fun heq => ?_
    have := congrArg List.length heq
    rw [List.length_take] at this
    omega
  · intro sid es e acc acc'
    have hturn : acc' = addEntry sid (blockOf sid es) e := blockOf_append_singleton sid es e
    obtain ⟨hnodup, hlower⟩ := isHeaderMap_blockOf sid es
    rw [hturn]
    refine ⟨hnodup, fun h hm => ⟨hlower _ (List.mem_map_of_mem hm), values_blockOf hm⟩, names_addEntry sid _ e, ?_⟩
    simp only [diag_addEntry, caseDiag, mem_names_blockOf]
    rfl

/-! ## What a header list serializes to (R151), and that it parses back -/

/-- The wire entry of an entry of a header list (R151). -/
def wireOf (e : HeaderEntry) : Bytes × Bytes := (lower e.name, joinNul e.values)

theorem hbSerialize_eq_wireBlock (hl : HeaderList) : hbSerialize hl = wireBlock (hl.map wireOf) := by
  have hentry : serializeEntry = fun e => wireEntry (wireOf e) := by
    funext e
    simp [serializeEntry, wireEntry, lengthPrefixed, wireOf, word]
  simp [hbSerialize, wireBlock, List.flatMap_map, hentry, word]

/-- The limits of R102 are those of the block's counts. -/
theorem wireFits_wireOf {hl : HeaderList} (h : headerListWellFormed hl = true) : wireFits (hl.map wireOf) := by
  simpa [headerListWellFormed, HeaderEntry.wellFormed, fits, wireFits, wireOf, length_joinNul] using h

theorem hbParse_hbSerialize_append (sid : StreamId) {hl : HeaderList} (h : headerListWellFormed hl = true) (rest : Bytes) :
    hbParse sid (hbSerialize hl ++ rest) = some (blockOf sid (hl.map wireOf), rest) := by
  rw [hbSerialize_eq_wireBlock, hbParse_wireBlock_append sid (wireFits_wireOf h)]

theorem canonicalHeaders_iff {hl : HeaderList} :
    canonicalHeaders hl = true ↔
      (hl.map HeaderEntry.name).Nodup ∧
        ∀ e ∈ hl, lower e.name = e.name ∧ e.values ≠ [] ∧ ∀ v ∈ e.values, 0x00#8 ∉ v := by
  simp [canonicalHeaders, and_assoc]

/-- Canonical headers are the map of their own block, without a diagnostic: every name is new and lowercase, and split undoes
join. -/
theorem blockOf_wireOf_of_canonical (sid : StreamId) {hl : HeaderList} (h : canonicalHeaders hl = true) :
    blockOf sid (hl.map wireOf) = ⟨hl, []⟩ := by
  rw [canonicalHeaders_iff] at h
  induction hl using List.reverseRecOn with
  | nil => rfl
  | append_singleton hl e ih =>
    obtain ⟨hnodup, hentries⟩ := h
    rw [List.map_append, List.nodup_append] at hnodup
    obtain ⟨hfront, -, hdisjoint⟩ := hnodup
    have hnew : e.name ∉ hl.map HeaderEntry.name := fun hm => hdisjoint _ hm e.name (by simp) rfl
    obtain ⟨hlower, hne, hnul⟩ := hentries e (by simp)
    have hacc := ih ⟨hfront, fun x hx => hentries x (List.mem_append_left _ hx)⟩
    rw [List.map_append, List.map_singleton, blockOf_append_singleton, hacc,
      addEntry_of_not_mem (by simpa [wireOf, hlower] using hnew)]
    simp [wireOf, hlower, splitNul_joinNul hne hnul, caseDiag]

theorem hbParse_canonical_append (sid : StreamId) {hl : HeaderList} (hwf : headerListWellFormed hl = true)
    (hc : canonicalHeaders hl = true) (rest : Bytes) : hbParse sid (hbSerialize hl ++ rest) = some (⟨hl, []⟩, rest) := by
  rw [hbParse_hbSerialize_append sid hwf, blockOf_wireOf_of_canonical sid hc]

/-- Settles O13: a header list's block is the block of its wire entries, which the parser reads back one by one. -/
theorem serializedBlocksParseBack : Obligations.SerializedBlocksParseBack := by
  unfold Obligations.SerializedBlocksParseBack
  exact ⟨hbSerialize_eq_wireBlock, by decide, fun hl sid rest hwf =>
    ⟨hbParse_hbSerialize_append sid hwf rest, fun hc => hbParse_canonical_append sid hwf hc rest⟩⟩

end Sys2Proof.Machine

namespace Sys2Proof

/-! ## Header-bearing commands that are well-formed (R102) -/

theorem SynStreamCmd.wellFormed_headers {f : SynStreamCmd} (h : f.wellFormed = true) :
    headerListWellFormed f.headers = true := by
  simp only [SynStreamCmd.wellFormed, Bool.and_eq_true] at h
  exact h.2

theorem SynStreamCmd.priority_lt {f : SynStreamCmd} (h : f.wellFormed = true) : f.priority < 8 := by
  simp only [SynStreamCmd.wellFormed, Bool.and_eq_true, fits, decide_eq_true_eq] at h
  omega

theorem SynReplyCmd.wellFormed_headers {f : SynReplyCmd} (h : f.wellFormed = true) :
    headerListWellFormed f.headers = true := by
  simp only [SynReplyCmd.wellFormed, Bool.and_eq_true] at h
  exact h.2

theorem HeadersCmd.wellFormed_headers {f : HeadersCmd} (h : f.wellFormed = true) :
    headerListWellFormed f.headers = true := by
  simp only [HeadersCmd.wellFormed, Bool.and_eq_true] at h
  exact h.2

/-- The priority is read back from its byte (R96). -/
theorem priorityOf_priorityByte {p : Nat} (h : p < 8) : priorityOf (priorityByte p) = BitVec.ofNat 3 p := by
  apply BitVec.eq_of_toNat_eq
  rw [toNat_priorityOf, toNat_priorityByte h, BitVec.toNat_ofNat]
  omega

/-! ## The engines in step (R171) -/

/-- Engines in step carry one more block, and are in step after it. -/
theorem Engine.inStep.next {eng : Engine} {cs : CState} {ds : DState} (h : eng.inStep cs ds) (b : Bytes) :
    ∃ ds', eng.inflateFeed ds (eng.deflateBlock cs b).2 = .fed ds' b true ∧ eng.inStep (eng.deflateBlock cs b).1 ds' := by
  obtain ⟨ds', hfeed, -⟩ := h [b]
  refine ⟨ds', hfeed, fun bs => ?_⟩
  obtain ⟨ds'', hfeed', hbs⟩ := h (b :: bs)
  rw [hfeed, FeedResult.fed.injEq] at hfeed'
  exact hfeed'.1 ▸ hbs

theorem Engine.deflated_append_singleton (eng : Engine) (cs : CState) (bs : List Bytes) (b : Bytes) :
    eng.deflated cs (bs ++ [b]) = (eng.deflateBlock (eng.deflated cs bs) b).1 := List.foldl_append ..

end Sys2Proof

namespace Sys2Proof.Machine

/-! ## An emitted control frame, as it is read (R122, R123, R130) -/

/-- The common header that a reader finds in a control frame emitted with a payload of `n` bytes (R122). -/
def emittedHeader (k : ControlKind) (flags : BitVec 8) (n : Nat) : ReadHeader :=
  ⟨Config.version, fillFlags k flags, BitVec.ofNat 24 n⟩

theorem toNat_length_emittedHeader {k : ControlKind} {flags : BitVec 8} {n : Nat} (h : n ≤ maxLength) :
    (emittedHeader k flags n).length.toNat = n := by
  rw [maxLength] at h
  rw [emittedHeader, BitVec.toNat_ofNat, Nat.mod_eq_of_lt (by omega)]

/-- The decoder finds the variant and its header in an emitted frame. -/
theorem decode_controlFrame_append (k : ControlKind) (flags : BitVec 8) (payload rest : Bytes) :
    decode (controlFrame k flags payload ++ rest) =
      .ok (k.readInstr (emittedHeader k flags payload.length), payload ++ rest) := by
  rw [controlFrame, controlHeaderBytes, List.append_assoc, decode_words, decodeHeader_control, emittedHeader]

/-- An emitted frame is eight header bytes and its payload. -/
theorem exists_header_controlFrame (k : ControlKind) (flags : BitVec 8) (payload : Bytes) :
    ∃ hdr : Bytes, hdr.length = 8 ∧ controlFrame k flags payload = hdr ++ payload := ⟨_, rfl, rfl⟩

/-! ## Through the fixed fields to the block (R201, R206, R211, R216) -/

theorem lengthTooSmall_raw {cfg : Cfg} (h : ReadHeader) (fixed : Nat) (hn : cfg.nocomp = true) :
    lengthTooSmall cfg h fixed = false := by
  simp [lengthTooSmall, hn]

theorem lengthTooSmall_of_le (cfg : Cfg) {h : ReadHeader} {fixed : Nat} (hl : fixed ≤ h.length.toNat) :
    lengthTooSmall cfg h fixed = false := by
  simp [lengthTooSmall, hl]

/-- Consuming `mid` after `pre`, up to `rest`, is consuming both. -/
theorem consumeTo_consumeTo_append {rh : ReadHalf} {pre mid rest : Bytes} (hb : rh.source.bytes = pre ++ mid ++ rest) :
    (rh.consumeTo (mid ++ rest)).consumeTo rest = rh.consumeTo rest :=
  consumeTo_consumeTo _ _ _ (by simp [hb]) (by simp)

/-- The read rule `rd` for the header `h`, on a source that begins with the `fixed` bytes `fields`, goes on to decode the block
behind them, and ends with the checks against `set` and the frame `frame`. -/
structure DecodesBlockAfter (eng : Engine) (cfg : Cfg) (h : ReadHeader) (rd : ReadHalf → Option ReadHalf) (fixed : Nat)
    (fields : Bytes) (sid : StreamId) (set : BannedSet) (frame : HeaderMap → Frame) : Prop where
  length : fields.length = fixed
  rule (rh : ReadHalf) (blk : Bytes) (hb : rh.source.bytes = fields ++ blk) :
    rd rh = hbDecode eng cfg h.length.toNat fixed sid (rh.consumeTo blk) (finishHeaders set sid frame)

section
variable {eng : Engine} {cfg : Cfg} {h : ReadHeader}

/-- The ten bytes before a SynStream's block (R206). -/
theorem rdSynStream_decodesBlock (hl : lengthTooSmall cfg h 10 = false) (w a : Word) (pb slot : Byte) :
    DecodesBlockAfter eng cfg h (rdSynStream eng cfg h) 10 (be32 w ++ be32 a ++ [pb, slot]) (get31 w) .request
      (.synStream (cfOf .synStream h) (get31 w) (get31 a) (priorityOf pb) slot) where
  length := rfl
  rule rh blk hb := by
    have hb1 : get31Word rh.source.bytes = some (get31 w, be32 a ++ pb :: slot :: blk) := by rw [hb]; simp
    rw [rdSynStream, hl, if_neg (by decide), read_some _ hb1,
      read_some (rh := rh.consumeTo (be32 a ++ pb :: slot :: blk)) _ (get31Word_be32_append a (pb :: slot :: blk)),
      read_some (rh := ReadHalf.consumeTo _ (pb :: slot :: blk)) _ rfl,
      read_some (rh := ReadHalf.consumeTo _ (slot :: blk)) _ rfl,
      consumeTo_consumeTo _ _ blk (by simp) (by simp), consumeTo_consumeTo _ _ blk (by simp) (by simp; omega),
      consumeTo_consumeTo _ _ blk (by simp [hb]) (by simp; omega)]

/-- The four bytes before a SynReply's block (R211). -/
theorem rdSynReply_decodesBlock (hl : lengthTooSmall cfg h 4 = false) (w : Word) :
    DecodesBlockAfter eng cfg h (rdSynReply eng cfg h) 4 (be32 w) (get31 w) .response
      (.synReply (cfOf .synReply h) (get31 w)) where
  length := rfl
  rule rh blk hb := by
    rw [rdSynReply, hl, if_neg (by decide), read_some _ (by rw [hb]; exact get31Word_be32_append w blk)]

/-- The four bytes before a Headers frame's block (R216). -/
theorem rdHeaders_decodesBlock (hl : lengthTooSmall cfg h 4 = false) (w : Word) :
    DecodesBlockAfter eng cfg h (rdHeaders eng cfg h) 4 (be32 w) (get31 w) (headersBannedSet cfg.headersParity (get31 w))
      (.headers (cfOf .headers h) (get31 w)) where
  length := rfl
  rule rh blk hb := by
    rw [rdHeaders, hl, if_neg (by decide), read_some _ (by rw [hb]; exact get31Word_be32_append w blk)]

/-- Each of the three rules reads any bytes as fixed fields. -/
theorem decodesBlock_of_headerRule {rd : ReadHalf → Option ReadHalf} {fixed : Nat} {fields : Bytes}
    (hr : headerRule eng cfg h rd fixed) (hl : fixed ≤ h.length.toNat) (hf : fields.length = fixed) :
    ∃ sid set frame, DecodesBlockAfter eng cfg h rd fixed fields sid set frame := by
  have hsmall := lengthTooSmall_of_le cfg hl
  have hword (hf4 : fields.length = 4) : ∃ w, fields = be32 w := by
    match fields, hf4 with
    | [b0, b1, b2, b3], _ => exact ⟨_, (be32_unbe32 b0 b1 b2 b3).symm⟩
  obtain ⟨rfl, rfl⟩ | ⟨rfl, rfl⟩ | ⟨rfl, rfl⟩ := hr
  · match fields, hf with
    | [b0, b1, b2, b3, b4, b5, b6, b7, pb, slot], _ =>
      have hd := rdSynStream_decodesBlock (eng := eng) hsmall (unbe32 b0 b1 b2 b3) (unbe32 b4 b5 b6 b7) pb slot
      rw [be32_unbe32, be32_unbe32] at hd
      exact ⟨_, _, _, hd⟩
  · obtain ⟨w, rfl⟩ := hword hf
    exact ⟨_, _, _, rdSynReply_decodesBlock hsmall w⟩
  · obtain ⟨w, rfl⟩ := hword hf
    exact ⟨_, _, _, rdHeaders_decodesBlock hsmall w⟩

/-- What the decoder makes of the fixed fields of a SynStream command (R96, R97). -/
theorem synStreamCmd_decodesBlock {f : SynStreamCmd} (hp : f.priority < 8) (hl : lengthTooSmall cfg h 10 = false) :
    DecodesBlockAfter eng cfg h (rdSynStream eng cfg h) 10 f.fixedFields (BitVec.ofNat 31 f.streamId) .request
      (.synStream (cfOf .synStream h) (BitVec.ofNat 31 f.streamId) (BitVec.ofNat 31 f.associatedStreamId)
        (BitVec.ofNat 3 f.priority) (BitVec.ofNat 8 f.slot)) := by
  rw [← maskedId_eq, ← maskedId_eq, maskedId, maskedId, ← get31_put31 (word f.streamId),
    ← get31_put31 (word f.associatedStreamId), ← priorityOf_priorityByte hp]
  exact rdSynStream_decodesBlock hl _ _ _ _

theorem synReplyCmd_decodesBlock (f : SynReplyCmd) (hl : lengthTooSmall cfg h 4 = false) :
    DecodesBlockAfter eng cfg h (rdSynReply eng cfg h) 4 f.fixedFields (BitVec.ofNat 31 f.streamId) .response
      (.synReply (cfOf .synReply h) (BitVec.ofNat 31 f.streamId)) := by
  rw [← maskedId_eq, maskedId, ← get31_put31]
  exact rdSynReply_decodesBlock hl _

theorem headersCmd_decodesBlock (f : HeadersCmd) (hl : lengthTooSmall cfg h 4 = false) :
    DecodesBlockAfter eng cfg h (rdHeaders eng cfg h) 4 f.fixedFields (BitVec.ofNat 31 f.streamId)
      (headersBannedSet cfg.headersParity (BitVec.ofNat 31 f.streamId))
      (.headers (cfOf .headers h) (BitVec.ofNat 31 f.streamId)) := by
  rw [← maskedId_eq, maskedId, ← get31_put31]
  exact rdHeaders_decodesBlock hl _

/-- READ_FRAME whose rule reads a block after its fixed fields comes to that block (R130, R175). -/
theorem DecodesBlockAfter.readHeader {rd : ReadHalf → Option ReadHalf} {fixed : Nat} {fields hdr blk : Bytes}
    {sid : StreamId} {set : BannedSet} {frame : HeaderMap → Frame} {rh : ReadHalf}
    (hd : DecodesBlockAfter eng cfg h rd fixed fields sid set frame) (h8 : hdr.length = 8)
    (hb : rh.source.bytes = hdr ++ fields ++ blk) :
    Machine.readHeader rh rd = hbDecode eng cfg h.length.toNat fixed sid (rh.consumeTo blk) (finishHeaders set sid frame) := by
  rw [readHeader_eight rh rd h8 (hb.trans (List.append_assoc ..)), hd.rule _ blk rfl, consumeTo_consumeTo_append hb]

end

/-! ## Header lists that a frame carries unchanged -/

/-- A frame on the stream `sid`, its map checked against `set`, gives the header list back as it was written: the list is
well-formed and canonical, no name is banned, and the stream id is not 0 (R102, R150, R162, R324). -/
structure SurvivesRoundTrip (set : BannedSet) (sid : StreamId) (hl : HeaderList) : Prop where
  wellFormed : headerListWellFormed hl = true
  canonical : canonicalHeaders hl = true
  notBanned : ∀ e ∈ hl, e.name ∉ set.names
  sid_ne_zero : sid ≠ 0

namespace SurvivesRoundTrip
variable {set : BannedSet} {sid : StreamId} {hl : HeaderList}

theorem of_streamId {n : Nat} (hid : n % 2 ^ 31 ≠ 0) (hwf : headerListWellFormed hl = true)
    (hc : canonicalHeaders hl = true) (hset : ∀ e ∈ hl, e.name ∉ set.names) :
    SurvivesRoundTrip set (BitVec.ofNat 31 n) hl :=
  ⟨hwf, hc, hset, maskedId_eq n ▸ mt (maskedId_eq_zero n).mp hid⟩

theorem hbParse_append (h : SurvivesRoundTrip set sid hl) (rest : Bytes) :
    hbParse sid (hbSerialize hl ++ rest) = some (⟨hl, []⟩, rest) :=
  hbParse_canonical_append sid h.wellFormed h.canonical rest

theorem finishHeaders (h : SurvivesRoundTrip set sid hl) (frame : HeaderMap → Frame) (rh : ReadHalf) :
    finishHeaders set sid frame ⟨hl, []⟩ rh = rh.finish (.returned (frame hl) []) := by
  rw [finishHeaders_eq, headerResult, if_neg (by simpa using h.notBanned), if_neg h.sid_ne_zero]

end SurvivesRoundTrip

/-! ## The frame in raw mode (R178) -/

/-- READ_FRAME of an emitted frame with a raw block returns the header list that was written and consumes the frame. -/
theorem readStep_rawFrame {s : State} {k : ControlKind} {flags : BitVec 8} {h : ReadHeader} {fixed : Nat}
    {fields rest : Bytes} {hl : HeaderList} {sid : StreamId} {set : BannedSet} {frame : HeaderMap → Frame} (hs : s.canRead)
    (hn : s.cfg.nocomp = true) (hsurv : SurvivesRoundTrip set sid hl)
    (hh : h = emittedHeader k flags (fixed + (hbSerialize hl).length))
    (hd : DecodesBlockAfter Config.engine s.cfg h (readRule Config.engine s.cfg (k.readInstr h)) fixed fields sid set frame)
    (hb : s.rh.source.bytes = controlFrame k flags (fields ++ hbSerialize hl) ++ rest) :
    readStep s = .next (s.readEnded (8 + fixed + (hbSerialize hl).length) (.returned (frame hl) [])) := by
  have hlen : (fields ++ hbSerialize hl).length = fixed + (hbSerialize hl).length := by rw [List.length_append, hd.length]
  have hdecode : decode s.rh.source.bytes = .ok (k.readInstr h, fields ++ hbSerialize hl ++ rest) := by
    rw [hb, decode_controlFrame_append, hlen, hh]
  obtain ⟨hdr, h8, hframe⟩ := exists_header_controlFrame k flags (fields ++ hbSerialize hl)
  have hbytes : s.rh.source.bytes = hdr ++ fields ++ hbSerialize hl ++ rest := by rw [hb, hframe]; simp
  have hread : readHeader s.rh (readRule Config.engine s.cfg (k.readInstr h)) =
      some ((s.rh.consumeTo rest).finish (.returned (frame hl) [])) := by
    rw [hd.readHeader h8 (hbytes.trans (List.append_assoc ..)), hbDecode, if_pos hn, hbDecodeRaw,
      read_some _ (hsurv.hbParse_append rest), hsurv.finishHeaders, consumeTo_consumeTo_append hbytes]
  rw [readStep_of_decode hdecode, exec_read (k.isRead_readInstr h), readFrame_answers hs hread,
    State.finish_consumeTo hb, length_controlFrame, hlen, Nat.add_assoc]

/-- Settles O56: the fields are read back one by one, then the block parses to the list, for each of the three variants. -/
theorem rawHeaderFramesRoundTrip : Obligations.RawHeaderFramesRoundTrip := by
  unfold Obligations.RawHeaderFramesRoundTrip
  intro s rest hs hn
  refine ⟨fun f hwf hid hc hset => ?_, fun f hwf hid hc hset => ?_, fun f hwf hid hc hset => ?_⟩
  · exact readStep_rawFrame (k := .synStream) hs hn (.of_streamId hid (SynStreamCmd.wellFormed_headers hwf) hc hset) rfl
      (synStreamCmd_decodesBlock (SynStreamCmd.priority_lt hwf) (lengthTooSmall_raw _ 10 hn))
  · exact readStep_rawFrame (k := .synReply) hs hn (.of_streamId hid (SynReplyCmd.wellFormed_headers hwf) hc hset) rfl
      (synReplyCmd_decodesBlock f (lengthTooSmall_raw _ 4 hn))
  · exact readStep_rawFrame (k := .headers) hs hn (.of_streamId hid (HeadersCmd.wellFormed_headers hwf) hc hset) rfl
      (headersCmd_decodesBlock f (lengthTooSmall_raw _ 4 hn))

/-! ## The fenced decode of a whole block (R176, R177) -/

/-- The decompressor's state at a read, the one created by it included (R176). -/
theorem inflater_eq {eng : Engine} {cfg : Cfg} {rh : ReadHalf} {ds : DState}
    (h : rh.zd = some ds ∨ (rh.zd = none ∧ ds = eng.inflateInit cfg.dict)) : inflater eng cfg rh = ds := by
  obtain h | ⟨h, rfl⟩ := h <;> rw [inflater, h]

/-- The read half when the whole fence of `L` bytes has been read, up to `rest`. -/
def fenceRead (eng : Engine) (cfg : Cfg) (L : Nat) (rest : Bytes) (rh : ReadHalf) : ReadHalf :=
  { (openFence eng cfg L rh).consumeTo rest with fence := 0 }

section
variable {eng : Engine} {cfg : Cfg} {L : Nat} {sid : StreamId} {rh : ReadHalf} {done : BlockAcc → ReadHalf → ReadHalf}
  {c rest : Bytes}

theorem srcRead_fence (hb : rh.source.bytes = c ++ rest) (hL : c.length = L) :
    srcRead (getBytes L) (openFence eng cfg L rh) = .got c ((openFence eng cfg L rh).consumeTo rest) :=
  srcRead_some (by rw [openFence_source, hb, getBytes_append hL])

/-- The engine rejects the block (R177). -/
theorem hbDecodeZ_zerr {z : Nat} (hb : rh.source.bytes = c ++ rest) (hL : c.length = L)
    (hfeed : eng.inflateFeed (inflater eng cfg rh) c = .zerr z) :
    hbDecodeZ eng cfg L sid rh done =
      some ((fenceRead eng cfg L rest rh).spoilInflater.breakHalf.raise (.zlibError z) 0 []) := by
  simp only [hbDecodeZ, srcRead_fence hb hL, hfeed, fenceRead]

/-- What the engine gives is not exactly one block at a flush boundary (R177). -/
theorem hbDecodeZ_inexact {ds : DState} {out : Bytes} {boundary : Bool} (hb : rh.source.bytes = c ++ rest)
    (hL : c.length = L) (hfeed : eng.inflateFeed (inflater eng cfg rh) c = .fed ds out boundary)
    (hbad : ∀ acc, hbParse sid out = some (acc, []) → boundary = false) :
    hbDecodeZ eng cfg L sid rh done =
      some ((fenceRead eng cfg L rest rh).spoilInflater.breakHalf.raise .wrongCompressedPayloadSize 0 []) := by
  simp only [hbDecodeZ, srcRead_fence hb hL, hfeed, fenceRead]
  split
  · rfl
  · rename_i acc more hp
    rw [if_neg]
    rintro ⟨rfl, hboundary⟩
    simp [hbad acc hp] at hboundary

/-- What the engine gives is exactly one block (R177). -/
theorem hbDecodeZ_exact {ds : DState} {out : Bytes} {acc : BlockAcc} (hb : rh.source.bytes = c ++ rest)
    (hL : c.length = L) (hfeed : eng.inflateFeed (inflater eng cfg rh) c = .fed ds out true)
    (hp : hbParse sid out = some (acc, [])) :
    hbDecodeZ eng cfg L sid rh done = some (done acc { fenceRead eng cfg L rest rh with zd := some ds }) := by
  simp only [hbDecodeZ, srcRead_fence hb hL, hfeed, hp, and_self, if_true, fenceRead]

end

/-- READ_FRAME of a frame whose fence is all there comes to the fenced decode (R130, R175). -/
theorem DecodesBlockAfter.readHeader_fenced {eng : Engine} {cfg : Cfg} {h : ReadHeader} {rd : ReadHalf → Option ReadHalf}
    {fixed : Nat} {fields hdr c rest : Bytes} {sid : StreamId} {set : BannedSet} {frame : HeaderMap → Frame} {rh : ReadHalf}
    (hd : DecodesBlockAfter eng cfg h rd fixed fields sid set frame) (hn : cfg.nocomp = false) (h8 : hdr.length = 8)
    (hb : rh.source.bytes = hdr ++ fields ++ c ++ rest) :
    Machine.readHeader rh rd =
      hbDecodeZ eng cfg (h.length.toNat - fixed) sid (rh.consumeTo (c ++ rest)) (finishHeaders set sid frame) := by
  rw [hd.readHeader h8 (hb.trans (List.append_assoc ..)), hbDecode, if_neg (by simp [hn])]

/-- A proper front part of a well-formed list's block does not parse, and a block that is not at a flush boundary is not exact:
what a cut block gives is no exact block. -/
theorem cut_block_inexact {sid : StreamId} {hl : HeaderList} {out : Bytes} {boundary : Bool}
    (hwf : headerListWellFormed hl = true) (hpre : out <+: hbSerialize hl)
    (hcut : ¬ (out = hbSerialize hl ∧ boundary = true)) (acc : BlockAcc) (hp : hbParse sid out = some (acc, [])) :
    boundary = false := by
  by_cases hout : out = hbSerialize hl
  · simpa [hout] using hcut
  · have hwhole := hbParse_hbSerialize_append sid hwf []
    rw [List.append_nil] at hwhole
    rw [(hbParse_readsFront sid).none_of_prefix hwhole hpre hout] at hp
    cases hp

/-- Settles O58: the engine gives a front part of the block, which is not the whole block at a flush boundary. -/
theorem truncatedCompressedBlocksAreRejected : Obligations.TruncatedCompressedBlocksAreRejected := by
  unfold Obligations.TruncatedCompressedBlocksAreRejected
  intro eng cfg hl cs ds rh h rd fixed hdr fields rest n hn htrunc hwf hzd hrule hcut hlen h8 hf hb
  obtain ⟨sid, set, frame, hd⟩ := decodesBlock_of_headerRule hrule (by omega) hf
  obtain ⟨ds', out, boundary, hfeed, hpre, hne⟩ := htrunc n hcut
  rw [← inflater_eq hzd] at hfeed
  have hL : ((eng.deflateBlock cs (hbSerialize hl)).2.take n).length = h.length.toNat - fixed := by
    rw [List.length_take]; omega
  exact ⟨_, (hd.readHeader_fenced hn h8 hb).trans (hbDecodeZ_inexact rfl hL hfeed (cut_block_inexact hwf hpre hne)),
    rfl, rfl, rfl⟩

/-- Settles O59: the read creates its decompressor from CFG.dict, and P-DICT says that it rejects the peer's first block. -/
theorem anotherDictionaryIsRejected : Obligations.AnotherDictionaryIsRejected := by
  unfold Obligations.AnotherDictionaryIsRejected
  intro eng cfg dict level b rh h rd fixed hdr fields rest hn hdict hne hzd hrule hlen h8 hf hb
  obtain ⟨sid, set, frame, hd⟩ := decodesBlock_of_headerRule hrule (by omega) hf
  obtain ⟨z, hfeed⟩ := hdict cfg.dict b hne
  rw [← inflater_eq (rh := rh) (.inr ⟨hzd, rfl⟩)] at hfeed
  exact ⟨_, z, (hd.readHeader_fenced hn h8 hb).trans (hbDecodeZ_zerr rfl (by omega) hfeed), rfl, rfl, rfl⟩

/-! ## The frame in compressed mode (R172, R179, R200) -/

/-- A header-bearing encode that returns OK has emitted the frame of the fixed fields and the scratch buffer, and the compressor is
where HB_ENCODE left it. -/
theorem hbWrite_ok {eng : Engine} {cfg : Cfg} {k : ControlKind} {fixed : Bytes} {hl : HeaderList} {sid : StreamId}
    {flags : BitVec 8} {wh wh' : WriteHalf} (h : hbWrite eng cfg k fixed hl sid flags wh = some wh')
    (hok : wh'.responses = wh.responses ++ [⟨.ok, 0⟩]) :
    wh'.sink.accepted = wh.sink.accepted ++ controlFrame k flags (fixed ++ (hbEncode eng cfg hl wh).scratch) ∧
      wh'.zc = (hbEncode eng cfg hl wh).zc := by
  obtain ⟨_, ⟨_, rfl⟩ | ⟨_, rfl⟩⟩ | ⟨_, h⟩ := hbWrite_cases h
  · simp at hok
  · simp at hok
  · obtain ⟨_, rfl⟩ | ⟨_, rfl⟩ | ⟨_, room, e, _, _, rfl⟩ := emitCtrl_cases h
    · simp at hok
    · simp
    · simp at hok

/-- A header-bearing write that returns OK after the blocks `bs` appends more than its header and fixed fields, and advances the
compressor by its own block. -/
theorem headerWrite_ok_nonEmpty {eng : Engine} {cfg : Cfg} {k : ControlKind} {fixed : Bytes} {hl : HeaderList}
    {sid : StreamId} {flags : BitVec 8} {wh wh' : WriteHalf} {dict : Bytes} {level : Nat} {bs : List Bytes} {c : Prop}
    [Decidable c] (hn : cfg.nocomp = false) (hne : eng.nonEmpty dict level)
    (hzc : wh.zc = some (eng.deflated (eng.deflateInit dict level) bs)) (hscratch : wh.scratch = [])
    (hok : wh'.responses = wh.responses ++ [⟨.ok, 0⟩])
    (h : (if c then some (wh.finish .zeroStreamId 0) else hbWrite eng cfg k fixed hl sid flags wh) = some wh') :
    wh.sink.accepted.length + 8 + fixed.length < wh'.sink.accepted.length ∧
      wh'.zc = some (eng.deflated (eng.deflateInit dict level) (bs ++ [hbSerialize hl])) := by
  split at h
  · cases h; simp at hok
  · obtain ⟨hacc, hzc'⟩ := hbWrite_ok h hok
    have hpos := List.length_pos_iff.mpr (hne bs (hbSerialize hl))
    rw [hacc, hzc', hbEncode_compressed hn hzc, Engine.deflated_append_singleton, WriteHalf.scratchAppend_scratch, hscratch,
      List.nil_append, List.length_append, length_controlFrame, List.length_append]
    exact ⟨by omega, rfl⟩

/-- Settles O60: a write with the result OK has emitted the compressed block, which P-NONEMPTY says is not empty. -/
theorem compressedBlocksAreNeverEmpty : Obligations.CompressedBlocksAreNeverEmpty := by
  unfold Obligations.CompressedBlocksAreNeverEmpty
  intro eng cfg dict level bs wh wh' hn hne hzc hscratch hok
  exact ⟨fun f h => headerWrite_ok_nonEmpty hn hne hzc hscratch hok h,
    fun f h => headerWrite_ok_nonEmpty hn hne hzc hscratch hok h,
    fun f h => headerWrite_ok_nonEmpty hn hne hzc hscratch hok h⟩

/-- A header-bearing encode that fits, at a sink that accepts, emits its frame and returns OK. -/
theorem hbWrite_accepts {eng : Engine} {cfg : Cfg} {k : ControlKind} {fixed : Bytes} {hl : HeaderList} {sid : StreamId}
    {flags : BitVec 8} {wh : WriteHalf} (hport : wh.sink.port = .accepts)
    (hlen : (fixed ++ (hbEncode eng cfg hl wh).scratch).length ≤ maxLength) :
    ∃ wh', hbWrite eng cfg k fixed hl sid flags wh = some wh' ∧ wh'.responses = wh.responses ++ [⟨.ok, 0⟩] := by
  refine ⟨_, (if_neg (by omega)).trans (emitCtrl_room _ hlen ?_), ?_⟩
  · simp [hport, SinkPort.hasRoom]
  · simp

/-- READ_FRAME of a frame whose fence the engine decodes to a surviving list's block returns that list (R177). -/
theorem DecodesBlockAfter.readHeader_returns {eng : Engine} {cfg : Cfg} {h : ReadHeader} {rd : ReadHalf → Option ReadHalf}
    {fixed : Nat} {fields hdr c rest : Bytes} {sid : StreamId} {set : BannedSet} {frame : HeaderMap → Frame} {rh : ReadHalf}
    {hl : HeaderList} {ds : DState} (hd : DecodesBlockAfter eng cfg h rd fixed fields sid set frame)
    (hn : cfg.nocomp = false) (hsurv : SurvivesRoundTrip set sid hl) (h8 : hdr.length = 8)
    (hb : rh.source.bytes = hdr ++ fields ++ c ++ rest) (hL : c.length = h.length.toNat - fixed)
    (hfeed : eng.inflateFeed (inflater eng cfg rh) c = .fed ds (hbSerialize hl) true) :
    Machine.readHeader rh rd =
      some ({ fenceRead eng cfg (h.length.toNat - fixed) rest (rh.consumeTo (c ++ rest)) with zd := some ds }.finish
        (.returned (frame hl) [])) := by
  have hparse : hbParse sid (hbSerialize hl) = some (⟨hl, []⟩, []) := by simpa using hsurv.hbParse_append []
  rw [hd.readHeader_fenced hn h8 hb, hbDecodeZ_exact (rh := rh.consumeTo (c ++ rest)) rfl hL hfeed hparse, hsurv.finishHeaders]

/-- The two halves before a compressed frame goes from one to the other: compressed mode, the two engine states in step, the
write half as the invariant has it and its sink accepting. -/
structure HalvesInStep (eng : Engine) (cfg : Cfg) (cs : CState) (ds : DState) (wh : WriteHalf) (rh : ReadHalf) : Prop where
  compressedMode : cfg.nocomp = false
  engines : eng.inStep cs ds
  compressor : wh.zc = some cs
  scratch : wh.scratch = []
  port : wh.sink.port = .accepts
  decompressor : rh.zd = some ds ∨ (rh.zd = none ∧ ds = eng.inflateInit cfg.dict)

namespace HalvesInStep
variable {eng : Engine} {cfg : Cfg} {cs : CState} {ds : DState} {wh : WriteHalf} {rh : ReadHalf} {k : ControlKind}
  {flags : BitVec 8} {h : ReadHeader} {fixed : Nat} {fields : Bytes} {hl : HeaderList} {sid wsid : StreamId}
  {set : BannedSet} {frame : HeaderMap → Frame}

/-- The encode emits the compressed block behind the fixed fields. -/
theorem hbWrite (hs : HalvesInStep eng cfg cs ds wh rh)
    (hlen : (fields ++ (eng.deflateBlock cs (hbSerialize hl)).2).length ≤ maxLength) :
    ∃ wh', hbWrite eng cfg k fields hl wsid flags wh = some wh' ∧ wh'.responses = wh.responses ++ [⟨.ok, 0⟩] ∧
      wh'.sink.accepted = wh.sink.accepted ++ controlFrame k flags (fields ++ (eng.deflateBlock cs (hbSerialize hl)).2) ∧
      wh'.zc = some (eng.deflateBlock cs (hbSerialize hl)).1 := by
  have henc := hbEncode_compressed (eng := eng) (hl := hl) hs.compressedMode hs.compressor
  have hblock : (hbEncode eng cfg hl wh).scratch = (eng.deflateBlock cs (hbSerialize hl)).2 := by simp [henc, hs.scratch]
  obtain ⟨wh', hwrite, hok⟩ := hbWrite_accepts (k := k) (sid := wsid) (flags := flags) hs.port (hblock ▸ hlen)
  obtain ⟨hacc, hzc⟩ := hbWrite_ok hwrite hok
  exact ⟨wh', hwrite, hok, hblock ▸ hacc, hzc.trans (congrArg WriteHalf.zc henc)⟩

/-- A frame goes from a write rule that comes to its header-bearing encode to a read rule that comes to its block (R179). -/
theorem carriesBlock {wr : WriteHalf → Option WriteHalf} {rd : ReadHalf → Option ReadHalf}
    (hs : HalvesInStep eng cfg cs ds wh rh) (hsurv : SurvivesRoundTrip set sid hl)
    (hlen : fixed + (eng.deflateBlock cs (hbSerialize hl)).2.length ≤ maxLength)
    (hh : h = emittedHeader k flags (fixed + (eng.deflateBlock cs (hbSerialize hl)).2.length))
    (hwr : wr wh = Machine.hbWrite eng cfg k fields hl wsid flags wh)
    (hrd : lengthTooSmall cfg h fixed = false → DecodesBlockAfter eng cfg h rd fixed fields sid set frame) (rest : Bytes) :
    carriesBlock eng wr h (k.readInstr h) rd fixed (frame hl) wh rh rest := by
  have hnat : h.length.toNat = fixed + (eng.deflateBlock cs (hbSerialize hl)).2.length :=
    hh ▸ toNat_length_emittedHeader hlen
  have hd := hrd (lengthTooSmall_of_le cfg (by omega))
  have hpayload : (fields ++ (eng.deflateBlock cs (hbSerialize hl)).2).length =
      fixed + (eng.deflateBlock cs (hbSerialize hl)).2.length := by rw [List.length_append, hd.length]
  obtain ⟨wh', hwrite, hok, hacc, hzc⟩ := hs.hbWrite (k := k) (flags := flags) (wsid := wsid) (hpayload.trans_le hlen)
  refine ⟨wh', _, _, hwr.trans hwrite, hzc, hacc, hok, by rw [length_controlFrame, hpayload, hnat], by omega, fun hb => ?_⟩
  obtain ⟨hdr, h8, hframe⟩ := exists_header_controlFrame k flags (fields ++ (eng.deflateBlock cs (hbSerialize hl)).2)
  obtain ⟨ds', hfeed, hstep⟩ := hs.engines.next (hbSerialize hl)
  rw [← inflater_eq hs.decompressor] at hfeed
  have hread := hd.readHeader_returns hs.compressedMode hsurv h8 (rest := rest) (by rw [hb, hframe]; simp) (by omega) hfeed
  refine ⟨_, ds', ?_, hread, rfl, rfl, rfl, rfl, rfl, hstep⟩
  rw [hb, decode_controlFrame_append, hpayload, ← hh, hframe, List.drop_left' h8]

end HalvesInStep

/-- Settles O57: each of the three variants emits the compressed block behind fixed fields that its decoder reads back; engines
in step carry the block. -/
theorem compressedFramesRoundTripInStep : Obligations.CompressedFramesRoundTripInStep := by
  unfold Obligations.CompressedFramesRoundTripInStep
  intro eng cfg cs ds wh rh rest hn hstep hzc hscratch hport hzd
  have hs : HalvesInStep eng cfg cs ds wh rh := ⟨hn, hstep, hzc, hscratch, hport, hzd⟩
  refine ⟨fun f hwf hid hc hset hlen => ?_, fun f hwf hid hc hset hlen => ?_, fun f hwf hid hc hset hlen => ?_⟩
  · exact hs.carriesBlock (k := .synStream) (.of_streamId hid (SynStreamCmd.wellFormed_headers hwf) hc hset) hlen rfl
      (if_neg (mt (maskedId_eq_zero _).mp hid)) (synStreamCmd_decodesBlock (SynStreamCmd.priority_lt hwf)) rest
  · exact hs.carriesBlock (k := .synReply) (.of_streamId hid (SynReplyCmd.wellFormed_headers hwf) hc hset) hlen rfl
      (if_neg (mt (maskedId_eq_zero _).mp hid)) (synReplyCmd_decodesBlock f) rest
  · exact hs.carriesBlock (k := .headers) (.of_streamId hid (HeadersCmd.wellFormed_headers hwf) hc hset) hlen rfl
      (if_neg (mt (maskedId_eq_zero _).mp hid)) (headersCmd_decodesBlock f) rest

end Sys2Proof.Machine

namespace Sys2Proof

/-! # The header-bearing family: the outcome of SynStream, SynReply and Headers, in every case and both modes -/

/-! ## The fixed fields a command is written with (R86, R87, R93) -/

theorem priorityByte_eq {p : Nat} (h : p < 8) : priorityByte p = BitVec.ofNat 8 (32 * p) := by
  apply BitVec.eq_of_toNat_eq
  rw [toNat_priorityByte h, BitVec.toNat_ofNat]
  omega

theorem SynStreamCmd.fixedFields_eq {f : SynStreamCmd} (h : f.priority < 8) :
    f.fixedFields =
      be32 (BitVec.ofNat 32 (f.streamId % 2 ^ 31)) ++ be32 (BitVec.ofNat 32 (f.associatedStreamId % 2 ^ 31)) ++
        [BitVec.ofNat 8 (32 * f.priority), BitVec.ofNat 8 f.slot] := by
  rw [SynStreamCmd.fixedFields, Machine.put31_word, Machine.put31_word, priorityByte_eq h, byte]

theorem SynReplyCmd.fixedFields_eq (f : SynReplyCmd) :
    f.fixedFields = be32 (BitVec.ofNat 32 (f.streamId % 2 ^ 31)) := by
  rw [SynReplyCmd.fixedFields, Machine.put31_word]

theorem HeadersCmd.fixedFields_eq (f : HeadersCmd) :
    f.fixedFields = be32 (BitVec.ofNat 32 (f.streamId % 2 ^ 31)) := by
  rw [HeadersCmd.fixedFields, Machine.put31_word]

end Sys2Proof

namespace Sys2Proof.Machine

/-! ## A header-bearing WRITE_FRAME (R200) -/

/-- A header-bearing encode that is over-long ends before it emits, and breaks the half in compressed mode only (R124, R330). -/
theorem hbWrite_overlong {eng : Engine} {cfg : Cfg} {k : ControlKind} {fixed : Bytes} {hl : HeaderList} {sid : StreamId}
    {flags : BitVec 8} {wh : WriteHalf} (h : (fixed ++ (hbEncode eng cfg hl wh).scratch).length > maxLength) :
    hbWrite eng cfg k fixed hl sid flags wh =
      some ((if cfg.nocomp then (hbEncode eng cfg hl wh).scratchClear else (hbEncode eng cfg hl wh).breakHalf).finish
        .invalidControlFrame sid) := if_pos h

/-- A header-bearing encode that fits emits its frame (R123, R200). -/
theorem hbWrite_fits {eng : Engine} {cfg : Cfg} {k : ControlKind} {fixed : Bytes} {hl : HeaderList} {sid : StreamId}
    {flags : BitVec 8} {wh : WriteHalf} (h : (fixed ++ (hbEncode eng cfg hl wh).scratch).length ≤ maxLength) :
    hbWrite eng cfg k fixed hl sid flags wh =
      emit (controlFrame k flags (fixed ++ (hbEncode eng cfg hl wh).scratch)) (hbEncode eng cfg hl wh)
        WriteHalf.scratchClear := by
  rw [hbWrite, if_neg (by omega), emitCtrl, if_neg (by omega)]

/-- Clearing an empty scratch buffer changes nothing: an encode that starts with one leaves no trace of its use (R22, R174). -/
theorem WriteHalf.scratchClear_of_empty {wh : WriteHalf} (h : wh.scratch = []) : wh.scratchClear = wh := by
  cases wh; cases h; rfl

section
variable {s : State} {rule : WriteHalf → Option WriteHalf} {k : ControlKind} {fixed block : Bytes} {hl : HeaderList}
  {sid : StreamId} {flags : BitVec 8} {wh₁ : WriteHalf}

/-- A WRITE_FRAME that comes to its header-bearing encode emits the frame of the fixed fields and the block, when it fits. `wh₁`
is the half with the compressor as the block leaves it (R172, R173). -/
theorem writeFrame_emits_headerFrame (hs : s.canWrite) (hscratch : wh₁.scratch = [])
    (hrule : rule s.wh = hbWrite Config.engine s.cfg k fixed hl sid flags s.wh)
    (henc : hbEncode Config.engine s.cfg hl s.wh = wh₁.scratchAppend block) (hlen : (fixed ++ block).length ≤ maxLength) :
    s.emits { s with wh := wh₁ } (controlFrame k flags (fixed ++ block)) (writeFrame true rule s) := by
  have hport : wh₁.sink.port = s.wh.sink.port := by
    rw [← hbEncode_sink Config.engine s.cfg hl s.wh, henc, WriteHalf.scratchAppend_sink]
  have hblock : (hbEncode Config.engine s.cfg hl s.wh).scratch = block := by simp [henc, hscratch]
  rw [writeFrame_runs rule hs, hrule, hbWrite_fits (by rw [hblock]; exact hlen), hblock, henc]
  refine emits_of_emit hport ?_ fun _ _ => rfl
  rw [← hport]
  conv_rhs => rw [← WriteHalf.scratchClear_of_empty hscratch]
  rfl

/-- A header-bearing WRITE_FRAME after its checks, in either mode (R200). -/
theorem writeFrame_writesBlock {header : BitVec 24 → Bytes} (hs : s.canWrite) (hscratch : s.wh.scratch = [])
    (hrule : rule s.wh = hbWrite Config.engine s.cfg k fixed hl sid flags s.wh)
    (hframe : ∀ payload, controlFrame k flags payload = header (BitVec.ofNat 24 payload.length) ++ payload) :
    s.writesBlock header fixed hl sid (writeFrame true rule s) := by
  refine ⟨fun hn => ?_, fun cs hn hzc => ?_⟩
  · have henc := hbEncode_raw (eng := Config.engine) (hl := hl) (wh := s.wh) hn
    refine ⟨fun hlen => ?_, fun hlen => ?_⟩
    · rw [← hframe]
      exact writeFrame_emits_headerFrame hs hscratch hrule henc hlen
    · have hover := hrule.trans (hbWrite_overlong (by simpa [henc, hscratch, maxLength] using hlen))
      rw [if_pos hn, henc] at hover
      rw [writeFrame_answers hs hover, State.writeRaised]
      conv_rhs => rw [← WriteHalf.scratchClear_of_empty hscratch]
      rfl
  · have henc := hbEncode_compressed (eng := Config.engine) (hl := hl) hn hzc
    refine ⟨fun hlen => ?_, fun hlen => ?_⟩
    · rw [← hframe]
      exact writeFrame_emits_headerFrame hs hscratch hrule henc hlen
    · have hover := hrule.trans (hbWrite_overlong (by simpa [henc, hscratch, maxLength] using hlen))
      rw [if_neg (by simp [hn]), henc] at hover
      exact writeFrame_answers hs hover

/-- The two ends of a header-bearing WRITE_FRAME: the check of the masked stream id `n`, then the block (R200, R205, R210,
R215). -/
theorem exec_headerWrite {i : Instr} {n : Nat} {header : BitVec 24 → Bytes} (hs : s.canWrite) (hwf : i.wellFormed = true)
    (hscratch : s.wh.scratch = []) (hi : i.isRead = false)
    (hrule : writeRule Config.engine s.cfg i s.wh =
      if maskedId n = 0 then some (s.wh.finish .zeroStreamId 0)
      else hbWrite Config.engine s.cfg k fixed hl (maskedId n) flags s.wh)
    (hframe : ∀ payload, controlFrame k flags payload = header (BitVec.ofNat 24 payload.length) ++ payload) :
    (n % 2 ^ 31 = 0 → exec i s = .next (s.writeRaised .zeroStreamId 0)) ∧
      (n % 2 ^ 31 ≠ 0 → s.writesBlock header fixed hl (BitVec.ofNat 31 n) (exec i s)) := by
  rw [exec_write hi, hwf, ← maskedId_eq n, Ne, ← maskedId_eq_zero n]
  refine ⟨fun hzero => ?_, fun hid => ?_⟩
  · exact writeFrame_answers hs (hrule.trans (if_pos hzero))
  · exact writeFrame_writesBlock hs hscratch (hrule.trans (if_neg hid)) hframe

end

/-- Settles O15: the zero check, then the header-bearing encode of the ten bytes of fixed fields. -/
theorem synStreamWriteOutcome : Obligations.SynStreamWriteOutcome := by
  unfold Obligations.SynStreamWriteOutcome
  intro f s hs hwf hscratch
  rw [← SynStreamCmd.fixedFields_eq (SynStreamCmd.priority_lt hwf)]
  exact exec_headerWrite hs hwf hscratch rfl rfl (controlFrame_bytes .synStream (byte f.flags))

/-- Settles O16: the zero check, then the header-bearing encode of the stream id. -/
theorem synReplyWriteOutcome : Obligations.SynReplyWriteOutcome := by
  unfold Obligations.SynReplyWriteOutcome
  intro f s hs hwf hscratch
  rw [← SynReplyCmd.fixedFields_eq]
  exact exec_headerWrite hs hwf hscratch rfl rfl (controlFrame_bytes .synReply (byte f.flags))

/-- Settles O17: the zero check, then the header-bearing encode of the stream id; no parity is looked at. -/
theorem headersWriteOutcome : Obligations.HeadersWriteOutcome := by
  unfold Obligations.HeadersWriteOutcome
  intro f s hs hwf hscratch
  rw [← HeadersCmd.fixedFields_eq]
  exact exec_headerWrite hs hwf hscratch rfl rfl (controlFrame_bytes .headers (byte f.flags))

end Sys2Proof.Machine

namespace Sys2Proof.Machine

/-! ## A source that ends within the fixed fields (R53, R135) -/

/-- The `answer` of an operation on `rh` is that of a source that does not hold the bytes it asks for: an IoError that breaks the half
with every byte consumed. -/
def RunsDry (answer : Option ReadHalf) (rh : ReadHalf) : Prop :=
  (rh.source.ending = .eof → answer = some ((rh.consumeTo []).breakHalf.raise (.ioError .unexpectedEof) 0 [])) ∧
  ∀ e, rh.source.ending = .error e → answer = some ((rh.consumeTo []).breakHalf.raise (.ioError (.transport e)) 0 [])

/-- READ of bytes that are not there (R135). -/
theorem RunsDry.read {α : Type} {p : Bytes → Option (α × Bytes)} {rh : ReadHalf} (k : α → ReadHalf → Option ReadHalf)
    (h : p rh.source.bytes = none) : RunsDry (read p rh k) rh :=
  ⟨read_eof k h, fun _ => read_error k h⟩

/-- What is consumed before the bytes run out does not show in the answer. -/
theorem RunsDry.of_consumeTo {answer : Option ReadHalf} {rh : ReadHalf} {rest : Bytes}
    (h : rest.length ≤ rh.source.bytes.length) (hd : RunsDry answer (rh.consumeTo rest)) : RunsDry answer rh := by
  rw [RunsDry, consumeTo_consumeTo _ _ _ h (Nat.zero_le _)] at hd
  exact hd

/-- A reader that answers has taken `n` bytes. -/
def Takes {α : Type} (n : Nat) (p : Bytes → Option (α × Bytes)) : Prop :=
  ∀ ⦃bs a rest⦄, p bs = some (a, rest) → bs.length = n + rest.length

theorem get8_takes : Takes 1 get8 := by
  intro bs a rest h
  cases bs <;> cases h
  rw [List.length_cons, Nat.add_comm]

theorem get31Word_takes : Takes 4 get31Word := by
  intro bs a rest h
  unfold get31Word at h
  split at h
  · cases h
    rename_i hw
    rw [eq_be32_of_get32 hw, List.length_append, length_be32]
  · cases h

/-- A read rule that asks for at least `n` bytes before anything else can end it. -/
def NeedsBytes (n : Nat) (rule : ReadHalf → Option ReadHalf) : Prop :=
  ∀ rh, rh.source.bytes.length < n → RunsDry (rule rh) rh

theorem NeedsBytes.zero {rule : ReadHalf → Option ReadHalf} : NeedsBytes 0 rule :=
  fun _ h => absurd h (Nat.not_lt_zero _)

theorem NeedsBytes.read {α : Type} {n total : Nat} {p : Bytes → Option (α × Bytes)} {k : α → ReadHalf → Option ReadHalf}
    (hp : Takes n p) (hk : ∀ a, NeedsBytes (total - n) (k a)) : NeedsBytes total fun rh => Machine.read p rh k := by
  intro rh h
  cases hb : p rh.source.bytes with
  | none => exact .read k hb
  | some ar =>
    have hlen := hp hb
    have hdry := hk ar.1 (rh.consumeTo ar.2) (show ar.2.length < total - n by omega)
    rw [← read_some k hb] at hdry
    exact hdry.of_consumeTo (by omega)

section
variable {eng : Engine} {cfg : Cfg} {h : ReadHeader}

theorem rdSynStream_needsBytes (hl : lengthTooSmall cfg h 10 = false) : NeedsBytes 10 (rdSynStream eng cfg h) := by
  unfold rdSynStream
  simp only [hl, Bool.false_eq_true, if_false]
  exact .read get31Word_takes fun _ => .read get31Word_takes fun _ => .read get8_takes fun _ => .read get8_takes fun _ =>
    .zero

theorem rdSynReply_needsBytes (hl : lengthTooSmall cfg h 4 = false) : NeedsBytes 4 (rdSynReply eng cfg h) := by
  unfold rdSynReply
  simp only [hl, Bool.false_eq_true, if_false]
  exact .read get31Word_takes fun _ => .zero

theorem rdHeaders_needsBytes (hl : lengthTooSmall cfg h 4 = false) : NeedsBytes 4 (rdHeaders eng cfg h) := by
  unfold rdHeaders
  simp only [hl, Bool.false_eq_true, if_false]
  exact .read get31Word_takes fun _ => .zero

end

/-- READ_FRAME that runs dry leaves the state of a source that ends inside the frame. -/
theorem RunsDry.readFrame {s : State} {rule : ReadHalf → Option ReadHalf} (hs : s.canRead)
    (hd : RunsDry (readHeader s.rh rule) s.rh) : s.runsShort (Machine.readFrame rule s) := by
  obtain ⟨heof, herror⟩ := hd
  have hall : s.rh.source.bytes = s.rh.source.bytes ++ [] := (List.append_nil _).symm
  refine ⟨fun he => ?_, fun e he => ?_⟩
  · rw [readFrame_answers hs (heof he), State.breakHalf_consumeTo hall]
  · rw [readFrame_answers hs (herror e he), State.breakHalf_consumeTo hall]

/-! ## The block in raw mode (R178) -/

/-- READ_FRAME that comes to a raw block behind `pre`: the block ends where its counts say, or the source runs short. -/
theorem readFrame_endsRawBlock {s : State} {rule : ReadHalf → Option ReadHalf} {pre blk : Bytes} {sid : StreamId}
    {set : BannedSet} {frame : HeaderMap → Frame} (hs : s.canRead) (hb : s.rh.source.bytes = pre ++ blk)
    (hrule : readHeader s.rh rule = hbDecodeRaw sid (s.rh.consumeTo blk) (finishHeaders set sid frame)) :
    s.endsRawBlock pre.length blk sid set frame (readFrame rule s) := by
  refine ⟨fun acc rest hp => ?_, fun hp => ?_⟩
  · obtain ⟨block, rfl⟩ := hbParse_suffix hp
    rw [← List.append_assoc] at hb
    have hend : readHeader s.rh rule = some ((s.rh.consumeTo rest).finish (headerResult set sid frame acc)) := by
      rw [hrule, hbDecodeRaw, read_some _ hp, finishHeaders_eq, consumeTo_consumeTo_append hb]
    rw [readFrame_answers hs hend, State.finish_consumeTo hb, List.length_append, List.length_append, Nat.add_sub_cancel]
  · have hdry : RunsDry (readHeader s.rh rule) (s.rh.consumeTo blk) := hrule ▸ .read _ hp
    exact (hdry.of_consumeTo (by simp [hb])).readFrame hs

/-! ## The block in compressed mode (R176, R177) -/

theorem inflater_eq_getD (eng : Engine) (cfg : Cfg) (rh : ReadHalf) :
    inflater eng cfg rh = rh.zd.getD (eng.inflateInit cfg.dict) := by
  unfold inflater
  cases rh.zd <;> rfl

theorem inflater_consumeTo (eng : Engine) (cfg : Cfg) (rh : ReadHalf) (rest : Bytes) :
    inflater eng cfg (rh.consumeTo rest) = inflater eng cfg rh := rfl

/-- A source that ends within the fence: the block's size is wrong (R177). -/
theorem hbDecodeZ_eof {eng : Engine} {cfg : Cfg} {L : Nat} {sid : StreamId} {rh : ReadHalf}
    {done : BlockAcc → ReadHalf → ReadHalf} (h : rh.source.bytes.length < L) (he : rh.source.ending = .eof) :
    hbDecodeZ eng cfg L sid rh done =
      some ({ (openFence eng cfg L rh).consumeTo [] with
        fence := BitVec.ofNat 32 (L - rh.source.bytes.length) }.spoilInflater.breakHalf.raise
          .wrongCompressedPayloadSize 0 []) := by
  simp [hbDecodeZ, srcRead, getBytes_eq_none.mpr h, he]

/-- A source that fails within the fence (R177). -/
theorem hbDecodeZ_error {eng : Engine} {cfg : Cfg} {L e : Nat} {sid : StreamId} {rh : ReadHalf}
    {done : BlockAcc → ReadHalf → ReadHalf} (h : rh.source.bytes.length < L) (he : rh.source.ending = .error e) :
    hbDecodeZ eng cfg L sid rh done =
      some ({ (openFence eng cfg L rh).consumeTo [] with
        fence := BitVec.ofNat 32 (L - rh.source.bytes.length) }.spoilInflater.breakHalf.raise
          (.ioError (.transport e)) 0 []) := by
  simp [hbDecodeZ, srcRead, getBytes_eq_none.mpr h, he]

section
variable {s : State} {pre block rest : Bytes} {eng : Engine} {cfg : Cfg} {L : Nat}

/-- Opening the fence behind `pre` and consuming the block in it is consuming both. -/
theorem openFence_consumeTo_append (hb : s.rh.source.bytes = pre ++ block ++ rest) :
    (openFence eng cfg L (s.rh.consumeTo (block ++ rest))).consumeTo rest = openFence eng cfg L (s.rh.consumeTo rest) := by
  conv_rhs => rw [← consumeTo_consumeTo_append hb]
  rfl

/-- An error inside a fenced block: the half BROKEN, the decompressor a free value (R325, U3). -/
theorem State.spoilInflater_consumeTo (hb : s.rh.source.bytes = pre ++ block ++ rest) (fence : Word) (st : Status) :
    { s with
      rh := { (openFence eng cfg L (s.rh.consumeTo (block ++ rest))).consumeTo rest with
        fence := fence }.spoilInflater.breakHalf.raise st 0 [] } =
      (s.readBroke (pre.length + block.length) st).withFreeInflater fence := by
  rw [openFence_consumeTo_append hb, consumeTo_append hb, List.length_append]
  rfl

/-- A fenced block that is exactly one block at a flush boundary: the decompressor goes on, the fence is 0 (R177). -/
theorem State.finish_fenceRead (hb : s.rh.source.bytes = pre ++ block ++ rest) (ds : DState) (r : RResult) :
    { s with rh := { fenceRead eng cfg L rest (s.rh.consumeTo (block ++ rest)) with zd := some ds }.finish r } =
      (s.readEnded (pre.length + block.length) r).withInflater ds 0 := by
  rw [fenceRead, openFence_consumeTo_append hb, consumeTo_append hb, List.length_append]
  rfl

end

/-- READ_FRAME that comes to a fenced block behind `pre`: the fence's bytes are not all there, or they are and the engine and the
parser decide. -/
theorem readFrame_endsFencedBlock {s : State} {rule : ReadHalf → Option ReadHalf} {pre blk : Bytes} {L : Nat}
    {sid : StreamId} {set : BannedSet} {frame : HeaderMap → Frame} (hs : s.canRead)
    (hb : s.rh.source.bytes = pre ++ blk)
    (hrule : readHeader s.rh rule =
      hbDecodeZ Config.engine s.cfg L sid (s.rh.consumeTo blk) (finishHeaders set sid frame)) :
    s.endsFencedBlock pre.length blk L sid set frame (readFrame rule s) := by
  have hall : s.rh.source.bytes = pre ++ blk ++ [] := hb.trans (List.append_nil _).symm
  refine ⟨fun hlen he => ?_, fun e hlen he => ⟨BitVec.ofNat 32 (L - blk.length), ?_⟩, fun hlen => ?_⟩
  · rw [readFrame_answers hs (hrule.trans (hbDecodeZ_eof hlen he)), ← State.spoilInflater_consumeTo hall, List.append_nil]
    rfl
  · rw [readFrame_answers hs (hrule.trans (hbDecodeZ_error hlen he)), ← State.spoilInflater_consumeTo hall, List.append_nil]
    rfl
  · obtain ⟨c, rest, rfl, rfl⟩ : ∃ c rest, blk = c ++ rest ∧ c.length = L :=
      ⟨blk.take L, blk.drop L, (List.take_append_drop L blk).symm, List.length_take_of_le hlen⟩
    have hbytes : s.rh.source.bytes = pre ++ c ++ rest := hb.trans (List.append_assoc ..).symm
    have broke {st : Status} (h : readHeader s.rh rule =
        some ((fenceRead Config.engine s.cfg c.length rest (s.rh.consumeTo (c ++ rest))).spoilInflater.breakHalf.raise
          st 0 [])) :
        readFrame rule s = .next ((s.readBroke (pre.length + c.length) st).withFreeInflater 0) :=
      (readFrame_answers hs h).trans (congrArg _ (State.spoilInflater_consumeTo hbytes 0 st))
    rw [List.take_left, ← inflater_eq_getD, ← inflater_consumeTo _ _ _ (c ++ rest)]
    cases hfeed : Config.engine.inflateFeed (inflater Config.engine s.cfg (s.rh.consumeTo (c ++ rest))) c with
    | zerr z => exact broke (hrule.trans (hbDecodeZ_zerr rfl rfl hfeed))
    | fed ds out boundary =>
      have inexact (h : ∀ acc, hbParse sid out = some (acc, []) → boundary = false) :=
        broke (hrule.trans (hbDecodeZ_inexact rfl rfl hfeed h))
      dsimp only
      split
      · rename_i acc hp
        cases boundary with
        | false => exact inexact fun _ _ => rfl
        | true =>
          have hend := hrule.trans (hbDecodeZ_exact rfl rfl hfeed hp)
          rw [finishHeaders_eq] at hend
          exact (readFrame_answers hs hend).trans (congrArg _ (State.finish_fenceRead hbytes ds _))
      · rename_i hp
        exact inexact fun acc h => absurd h (hp acc)

/-! ## A header-bearing READ_FRAME (R175, R201) -/

/-- The length precondition fails only in compressed mode (R201). -/
theorem lengthTooSmall_eq_false {cfg : Cfg} {h : ReadHeader} {fixed : Nat}
    (hl : cfg.nocomp = true ∨ fixed ≤ h.length.toNat) : lengthTooSmall cfg h fixed = false :=
  hl.elim (lengthTooSmall_raw h fixed) (lengthTooSmall_of_le cfg)

theorem lengthTooSmall_eq_true {cfg : Cfg} {h : ReadHeader} {fixed : Nat} (hn : cfg.nocomp = false)
    (hl : h.length.toNat < fixed) : lengthTooSmall cfg h fixed = true := by
  simp [lengthTooSmall, hn, hl]

section
variable {s : State} {i : Instr} {h : ReadHeader} {hdr payload : Bytes} {fixed : Nat}

/-- The length precondition's end, after the header (R201). -/
theorem exec_tooSmall (hs : s.canRead) (hi : i.isRead = true) (h8 : hdr.length = 8)
    (hb : s.rh.source.bytes = hdr ++ payload)
    (hrule : ∀ rh, readRule Config.engine s.cfg i rh = some (raiseTooSmall rh)) :
    exec i s = .next (s.readBroke 8 .invalidControlFrame) := by
  rw [exec_read hi, readFrame_answers hs ((readHeader_eight s.rh _ h8 hb).trans (hrule _)), raiseTooSmall,
    State.breakHalf_consumeTo hb, h8]

/-- A source that ends before the bytes a rule needs after the header (R135). -/
theorem exec_runsShort {n : Nat} (hs : s.canRead) (hi : i.isRead = true) (h8 : hdr.length = 8)
    (hb : s.rh.source.bytes = hdr ++ payload) (hrule : NeedsBytes n (readRule Config.engine s.cfg i))
    (hlen : payload.length < n) : s.runsShort (exec i s) := by
  have hdry := hrule (s.rh.consumeTo payload) hlen
  rw [← readHeader_eight s.rh (readRule Config.engine s.cfg i) h8 hb] at hdry
  exact exec_read hi s ▸ (hdry.of_consumeTo (by simp [hb])).readFrame hs

/-- A rule that comes to its block ends with it, in either mode (R175). -/
theorem exec_endsBlock {fields blk : Bytes} {sid : StreamId} {set : BannedSet} {frame : HeaderMap → Frame}
    (hs : s.canRead) (hi : i.isRead = true) (h8 : hdr.length = 8) (hb : s.rh.source.bytes = hdr ++ (fields ++ blk))
    (hd : DecodesBlockAfter Config.engine s.cfg h (readRule Config.engine s.cfg i) fixed fields sid set frame) :
    s.endsBlock h.length.toNat fixed blk sid set frame (exec i s) := by
  rw [← List.append_assoc] at hb
  have hrule := hd.readHeader h8 hb
  have hpos : (hdr ++ fields).length = 8 + fixed := by rw [List.length_append, h8, hd.length]
  rw [exec_read hi, State.endsBlock, ← hpos]
  refine ⟨fun hn => ?_, fun hn => ?_⟩
  · rw [hbDecode, if_pos hn] at hrule
    exact readFrame_endsRawBlock hs hb hrule
  · rw [hbDecode, if_neg (by simp [hn])] at hrule
    exact readFrame_endsFencedBlock hs hb hrule

end

/-- Settles O25: the length precondition, the ten bytes of fixed fields, then the block. -/
theorem synStreamReadOutcome : Obligations.SynStreamReadOutcome := by
  unfold Obligations.SynStreamReadOutcome
  intro h hdr payload s hs h8 hb
  refine ⟨fun hn hl => ?_, fun hl hshort => ?_, fun hl w1 w2 pb slot blk hp => ?_⟩
  · exact exec_tooSmall hs rfl h8 hb fun rh => if_pos (lengthTooSmall_eq_true hn hl)
  · exact exec_runsShort hs rfl h8 hb (rdSynStream_needsBytes (lengthTooSmall_eq_false hl)) hshort
  · exact exec_endsBlock hs rfl h8 (hp ▸ hb) (rdSynStream_decodesBlock (lengthTooSmall_eq_false hl) w1 w2 pb slot)

/-- Settles O26: the length precondition, the stream id, then the block. -/
theorem synReplyReadOutcome : Obligations.SynReplyReadOutcome := by
  unfold Obligations.SynReplyReadOutcome
  intro h hdr payload s hs h8 hb
  refine ⟨fun hn hl => ?_, fun hl hshort => ?_, fun hl w1 blk hp => ?_⟩
  · exact exec_tooSmall hs rfl h8 hb fun rh => if_pos (lengthTooSmall_eq_true hn hl)
  · exact exec_runsShort hs rfl h8 hb (rdSynReply_needsBytes (lengthTooSmall_eq_false hl)) hshort
  · exact exec_endsBlock hs rfl h8 (hp ▸ hb) (rdSynReply_decodesBlock (lengthTooSmall_eq_false hl) w1)

/-- The banned set of a Headers frame: the request names on odd streams under CONVENTION and on even ones under SOURCE (R161). -/
theorem headersBannedSet_get31 (parity : HeadersParity) (w : Word) :
    headersBannedSet parity (get31 w) =
      if (w.toNat % 2 = 1 ↔ parity = .convention) then .request else .response := by
  have hbit : (get31 w).getLsbD 0 = decide (w.toNat % 2 = 1) := by
    simp [get31, BitVec.getLsbD, Nat.testBit_zero]
  rw [headersBannedSet.eq_def, hbit]
  cases parity <;> by_cases hodd : w.toNat % 2 = 1 <;> simp [hodd]

/-- Settles O27: the length precondition, the stream id, whose parity chooses the banned set, then the block. -/
theorem headersReadOutcome : Obligations.HeadersReadOutcome := by
  unfold Obligations.HeadersReadOutcome
  intro h hdr payload s hs h8 hb
  refine ⟨fun hn hl => ?_, fun hl hshort => ?_, fun hl w1 blk hp => ?_⟩
  · exact exec_tooSmall hs rfl h8 hb fun rh => if_pos (lengthTooSmall_eq_true hn hl)
  · exact exec_runsShort hs rfl h8 hb (rdHeaders_needsBytes (lengthTooSmall_eq_false hl)) hshort
  · rw [← headersBannedSet_get31]
    exact exec_endsBlock hs rfl h8 (hp ▸ hb) (rdHeaders_decodesBlock (lengthTooSmall_eq_false hl) w1)

end Sys2Proof.Machine

namespace Sys2Proof

/-! # The fixed control frames: the outcome of RstStream, Settings, Ping, GoAway and WindowUpdate, in every case -/

/-! ## The frames the commands are emitted as (R86 to R94, R122) -/

theorem RstStreamCmd.status_lt {f : RstStreamCmd} (h : f.wellFormed = true) : f.status < 2 ^ 32 := by
  simp only [RstStreamCmd.wellFormed, Bool.and_eq_true, fits, decide_eq_true_eq] at h
  exact h.2

theorem PingCmd.id_lt {f : PingCmd} (h : f.wellFormed = true) : f.id < 2 ^ 32 := by
  simp only [PingCmd.wellFormed, Bool.and_eq_true, fits, decide_eq_true_eq] at h
  exact h.2

theorem RstStreamCmd.length_payload (f : RstStreamCmd) : f.payload.length = 8 := rfl

theorem PingCmd.length_payload (f : PingCmd) : f.payload.length = 4 := rfl

theorem WindowUpdateCmd.length_payload (f : WindowUpdateCmd) : f.payload.length = 8 := rfl

theorem SettingsCmd.length_payload (f : SettingsCmd) : f.payload.length = 4 + 8 * f.entries.length := by
  simp [SettingsCmd.payload, SettingsCmdEntry.bytes, List.length_flatMap, Nat.mul_comm]

theorem RstStreamCmd.frame_eq (f : RstStreamCmd) :
    controlFrame .rstStream (byte f.flags) f.payload =
      [0x80#8, 0x03#8, 0x00#8, 0x03#8] ++ [BitVec.ofNat 8 f.flags] ++ Machine.be24 8 ++
        be32 (BitVec.ofNat 32 (f.streamId % 2 ^ 31)) ++ be32 (BitVec.ofNat 32 f.status) := by
  rw [Machine.controlFrame_bytes, RstStreamCmd.payload, Machine.put31_word, ← List.append_assoc]
  rfl

/-- A Settings entry is emitted as its flag's byte, the three of its id, and its value (R90). -/
theorem SettingsCmdEntry.bytes_eq (e : SettingsCmdEntry) :
    e.bytes = [BitVec.ofNat 8 e.flag] ++ Machine.be24 (BitVec.ofNat 24 e.id) ++ be32 (BitVec.ofNat 32 e.value) :=
  congrArg (· ++ be32 (word e.value)) (Machine.be32_lengthWord (byte e.flag) (BitVec.ofNat 24 e.id))

theorem SettingsCmd.frame_eq (f : SettingsCmd) :
    controlFrame .settings (byte f.flags) f.payload =
      [0x80#8, 0x03#8, 0x00#8, 0x04#8] ++ [BitVec.ofNat 8 f.flags] ++
        Machine.be24 (BitVec.ofNat 24 (4 + 8 * f.entries.length)) ++ be32 (BitVec.ofNat 32 f.entries.length) ++
        f.entries.flatMap fun e =>
          [BitVec.ofNat 8 e.flag] ++ Machine.be24 (BitVec.ofNat 24 e.id) ++ be32 (BitVec.ofNat 32 e.value) := by
  rw [Machine.controlFrame_bytes, f.length_payload, SettingsCmd.payload, ← List.append_assoc,
    funext SettingsCmdEntry.bytes_eq]
  rfl

/-- The flags of the command do not show in a Ping's frame (R122). -/
theorem PingCmd.frame_eq (f : PingCmd) (flags : BitVec 8) :
    controlFrame .ping flags f.payload =
      [0x80#8, 0x03#8, 0x00#8, 0x06#8, 0x00#8, 0x00#8, 0x00#8, 0x04#8] ++ be32 (BitVec.ofNat 32 f.id) := by
  rw [Machine.controlFrame_bytes, f.length_payload]
  rfl

/-- The flags of the command do not show in a GoAway's frame (R122). -/
theorem GoAwayCmd.frame_eq (f : GoAwayCmd) (flags : BitVec 8) :
    controlFrame .goAway flags f.payload =
      [0x80#8, 0x03#8, 0x00#8, 0x07#8, 0x00#8, 0x00#8, 0x00#8, 0x08#8] ++
        be32 (BitVec.ofNat 32 (f.lastGoodStreamId % 2 ^ 31)) ++ be32 (BitVec.ofNat 32 f.status) := by
  rw [Machine.controlFrame_bytes, Machine.length_goAway_payload, GoAwayCmd.payload, Machine.put31_word, ← List.append_assoc]
  rfl

/-- The flags of the command do not show in a WindowUpdate's frame (R122). -/
theorem WindowUpdateCmd.frame_eq (f : WindowUpdateCmd) (flags : BitVec 8) :
    controlFrame .windowUpdate flags f.payload =
      [0x80#8, 0x03#8, 0x00#8, 0x09#8, 0x00#8, 0x00#8, 0x00#8, 0x08#8] ++
        be32 (BitVec.ofNat 32 (f.streamId % 2 ^ 31)) ++ be32 (BitVec.ofNat 32 (f.deltaWindowSize % 2 ^ 31)) := by
  rw [Machine.controlFrame_bytes, f.length_payload, WindowUpdateCmd.payload, Machine.put31_word, Machine.put31_word,
    ← List.append_assoc]
  rfl

end Sys2Proof

namespace Sys2Proof.Machine

/-! ## A fixed control frame's WRITE_FRAME: an error before any byte, or one emission (R120, R123) -/

section
variable {s : State} {i : Instr}

/-- A command whose rule ends before it emits leaves the state of a raised error. -/
theorem exec_writeRaised {st : Status} {sid : StreamId} (hs : s.canWrite) (hwf : i.wellFormed = true)
    (hi : i.isRead = false) (hrule : writeRule Config.engine s.cfg i s.wh = some (s.wh.finish st sid)) :
    exec i s = .next (s.writeRaised st sid) := by
  rw [exec_write hi, hwf]
  exact writeFrame_answers hs hrule

/-- A command whose rule comes to EMIT_CTRL with a payload that fits emits the payload's frame. -/
theorem exec_emitsControl {k : ControlKind} {flags : BitVec 8} {payload : Bytes} {sid : StreamId} (hs : s.canWrite)
    (hwf : i.wellFormed = true) (hi : i.isRead = false) (hlen : payload.length ≤ maxLength)
    (hrule : writeRule Config.engine s.cfg i s.wh = emitCtrl k flags payload sid s.wh id) :
    s.emits s (controlFrame k flags payload) (exec i s) := by
  rw [exec_write hi, hwf, writeFrame_runs _ hs, hrule, emitCtrl, if_neg (by omega)]
  exact emits_of_emit rfl rfl fun _ _ => rfl

end

/-- Settles O18: the status check, then the zero check of the masked id, then the emission. -/
theorem rstStreamWriteOutcome : Obligations.RstStreamWriteOutcome := by
  unfold Obligations.RstStreamWriteOutcome
  intro f s hs hwf
  rw [← f.frame_eq, ← maskedId_eq, Ne, Ne, ← maskedId_eq_zero, ← word_eq_zero (RstStreamCmd.status_lt hwf)]
  refine ⟨fun hstatus => ?_, fun hstatus hid => ?_, fun hstatus hid => ?_⟩
  · exact exec_writeRaised hs hwf rfl (if_pos hstatus)
  · exact exec_writeRaised hs hwf rfl ((if_neg hstatus).trans (if_pos hid))
  · exact exec_emitsControl hs hwf rfl (by simp [f.length_payload, maxLength])
      ((if_neg hstatus).trans (if_neg hid))

/-- Settles O19: the check that `4 + 8n` fits the length field, then the emission. -/
theorem settingsWriteOutcome : Obligations.SettingsWriteOutcome := by
  unfold Obligations.SettingsWriteOutcome
  intro f s hs hwf
  rw [← f.frame_eq]
  refine ⟨fun hmany => ?_, fun hfew => ?_⟩
  · have hlong : 4 + 8 * f.entries.length > maxLength := by unfold maxLength; omega
    exact exec_writeRaised hs hwf rfl (if_pos hlong)
  · have hfits : 4 + 8 * f.entries.length ≤ maxLength := by unfold maxLength; omega
    exact exec_emitsControl hs hwf rfl (f.length_payload ▸ hfits) (if_neg (Nat.not_lt.mpr hfits))

/-- Settles O20: the zero check of the whole id, then the emission with no flags. -/
theorem pingWriteOutcome : Obligations.PingWriteOutcome := by
  unfold Obligations.PingWriteOutcome
  intro f s hs hwf
  rw [← f.frame_eq (byte f.flags), Ne, ← word_eq_zero (PingCmd.id_lt hwf)]
  refine ⟨fun hid => ?_, fun hid => ?_⟩
  · exact exec_writeRaised hs hwf rfl (if_pos hid)
  · exact exec_emitsControl hs hwf rfl (by simp [f.length_payload, maxLength]) (if_neg hid)

/-- Settles O21: the emission with no flags, unconditionally. -/
theorem goAwayWriteOutcome : Obligations.GoAwayWriteOutcome := by
  unfold Obligations.GoAwayWriteOutcome
  intro f s hs hwf
  rw [← f.frame_eq (byte f.flags)]
  exact exec_emitsControl (sid := 0) hs hwf rfl (by simp [length_goAway_payload, maxLength]) rfl

/-- Settles O22: the zero check of the masked id, then the emission with no flags. -/
theorem windowUpdateWriteOutcome : Obligations.WindowUpdateWriteOutcome := by
  unfold Obligations.WindowUpdateWriteOutcome
  intro f s hs hwf
  rw [← f.frame_eq (byte f.flags), Ne, ← maskedId_eq_zero]
  refine ⟨fun hid => ?_, fun hid => ?_⟩
  · exact exec_writeRaised hs hwf rfl (if_pos hid)
  · exact exec_emitsControl hs hwf rfl (by simp [f.length_payload, maxLength]) (if_neg hid)

/-! ## Readers of fixed size, on fewer bytes and on the bytes their value is written as (R90, R246) -/

/-- A reader that takes `n` bytes finds nothing in fewer. -/
theorem Takes.eq_none {α : Type} {n : Nat} {p : Bytes → Option (α × Bytes)} (hp : Takes n p) {bs : Bytes}
    (h : bs.length < n) : p bs = none := by
  cases hb : p bs with
  | none => rfl
  | some ar => have := hp hb; omega

theorem get32_takes : Takes 4 get32 := by
  intro bs w rest h
  rw [eq_be32_of_get32 h, List.length_append, length_be32]

theorem getSettingsEntry_takes : Takes 8 getSettingsEntry := by
  intro bs e rest h
  unfold getSettingsEntry at h
  split at h
  · cases h
  · rename_i hword
    split at h
    · cases h
    · rename_i hvalue
      cases h
      rw [get32_takes hword, get32_takes hvalue, ← Nat.add_assoc]

theorem getSettingsEntries_takes (n : Nat) : Takes (8 * n) (getSettingsEntries n) := by
  induction n with
  | zero => intro bs es rest h; cases h; simp
  | succ n ih =>
    intro bs es rest h
    unfold getSettingsEntries at h
    split at h
    · cases h
    · rename_i hentry
      split at h
      · cases h
      · rename_i hentries
        cases h
        have hhead := getSettingsEntry_takes hentry
        have htail := ih hentries
        omega

/-- A Settings entry is read back from its flag, id and value (R90). -/
theorem getSettingsEntry_wire_append (e : SettingsEntry) (rest : Bytes) :
    getSettingsEntry (e.wire ++ rest) = some (e, rest) := by
  have hflag : (lengthWord e.flag e.id).extractLsb' 24 8 = e.flag := flagsOf_lengthWord e.flag e.id
  have hid : (lengthWord e.flag e.id).extractLsb' 0 24 = e.id := lengthOf_lengthWord e.flag e.id
  rw [SettingsEntry.wire, ← be32_lengthWord, List.append_assoc]
  simp only [getSettingsEntry, get32_be32_append, hflag, hid]

/-- As many Settings entries as stand there are read back, in wire order (R246). -/
theorem getSettingsEntries_flatMap_append (es : List SettingsEntry) (rest : Bytes) :
    getSettingsEntries es.length (es.flatMap SettingsEntry.wire ++ rest) = some (es, rest) := by
  induction es with
  | nil => rfl
  | cons e es ih =>
    simp only [List.length_cons, List.flatMap_cons, List.append_assoc, getSettingsEntries, getSettingsEntry_wire_append, ih]

theorem length_flatMap_wire (es : List SettingsEntry) : (es.flatMap SettingsEntry.wire).length = 8 * es.length := by
  simp [List.length_flatMap, SettingsEntry.wire, be24, Nat.mul_comm]

/-! ## A fixed control frame's READ_FRAME: the fixed fields, then one result (R99, R135) -/

/-- The read rule `rule`, on a source that begins with the bytes `fields`, consumes exactly those and ends with the result `r`. -/
def EndsAfter (rule : ReadHalf → Option ReadHalf) (fields : Bytes) (r : RResult) : Prop :=
  ∀ rh rest, rh.source.bytes = fields ++ rest → rule rh = some ((rh.consumeTo rest).finish r)

namespace EndsAfter
variable {α : Type} {p : Bytes → Option (α × Bytes)} {a : α} {k : α → ReadHalf → Option ReadHalf} {front fields : Bytes}
  {r : RResult}

/-- The last field, and the result that follows it. -/
theorem last (hp : ∀ rest, p (fields ++ rest) = some (a, rest)) (hk : ∀ rh, k a rh = some (rh.finish r)) :
    EndsAfter (fun rh => Machine.read p rh k) fields r := by
  intro rh rest hb
  exact (read_some k (hb ▸ hp rest)).trans (hk _)

/-- A field before the others. -/
theorem read (hp : ∀ rest, p (front ++ rest) = some (a, rest)) (hk : EndsAfter (k a) fields r) :
    EndsAfter (fun rh => Machine.read p rh k) (front ++ fields) r := by
  intro rh rest hb
  have hfront : p rh.source.bytes = some (a, fields ++ rest) := by rw [hb, List.append_assoc, hp]
  rw [← consumeTo_consumeTo_append hb]
  exact (read_some k hfront).trans (hk _ rest rfl)

end EndsAfter

section
variable {s : State} {i : Instr} {hdr payload : Bytes}

/-- READ_FRAME whose rule ends after its fixed fields consumes the header and those, `n` bytes (R99). -/
theorem exec_endsAfter {fields rest : Bytes} {r : RResult} {n : Nat} (hn : 8 + fields.length = n) (hs : s.canRead)
    (hi : i.isRead = true) (h8 : hdr.length = 8) (hb : s.rh.source.bytes = hdr ++ (fields ++ rest))
    (hr : EndsAfter (readRule Config.engine s.cfg i) fields r) : exec i s = .next (s.readEnded n r) := by
  have hb' : s.rh.source.bytes = hdr ++ fields ++ rest := hb.trans (List.append_assoc ..).symm
  have hend : readHeader s.rh (readRule Config.engine s.cfg i) = some ((s.rh.consumeTo rest).finish r) := by
    rw [readHeader_eight s.rh _ h8 hb, hr _ rest rfl, consumeTo_consumeTo_append hb']
  rw [exec_read hi, readFrame_answers hs hend, State.finish_consumeTo hb', List.length_append, h8, hn]

/-- READ_FRAME whose rule runs dry on the bytes after the header (R135). -/
theorem exec_runsDry (hs : s.canRead) (hi : i.isRead = true) (h8 : hdr.length = 8)
    (hb : s.rh.source.bytes = hdr ++ payload)
    (hd : RunsDry (readRule Config.engine s.cfg i (s.rh.consumeTo payload)) (s.rh.consumeTo payload)) :
    s.runsShort (exec i s) := by
  rw [← readHeader_eight s.rh (readRule Config.engine s.cfg i) h8 hb] at hd
  exact exec_read hi s ▸ (hd.of_consumeTo (by simp [hb])).readFrame hs

end

section
variable {h : ReadHeader}

/-! ## The checks after the fixed fields (R241, R251, R256, R261) -/

theorem pingHeaderBad_iff : pingHeaderBad h = true ↔ h.flags ≠ 0 := by simp [pingHeaderBad]

theorem fixedEightHeaderBad_iff : fixedEightHeaderBad h = true ↔ h.flags ≠ 0 ∨ h.length ≠ 8 := by
  simp [fixedEightHeaderBad]

/-- The record `cf` of a GoAway or WindowUpdate that passes the check of its flags and length. -/
theorem cfOf_of_fixedEight (k : ControlKind) (hgood : ¬ (h.flags ≠ 0 ∨ h.length ≠ 8)) :
    cfOf k h = ⟨h.version, k.discriminant, 0, 8⟩ := by
  obtain ⟨hflags, hlen⟩ : h.flags = 0 ∧ h.length = 8 := by simpa using hgood
  rw [cfOf, hflags, hlen]

/-- A RstStream's checks: the status, then the id (R241). -/
theorem rdRstStream_endsAfter (w1 w2 : Word) :
    EndsAfter (rdRstStream h) (be32 w1 ++ be32 w2)
      (if w2 = 0 then .raised .invalidControlFrame (get31 w1) []
      else if get31 w1 = 0 then .raised .zeroStreamId 0 []
      else .returned (.rstStream (cfOf .rstStream h) (get31 w1) w2) []) := by
  refine .read (get31Word_be32_append w1) (.last (get32_be32_append w2) fun rh => ?_)
  simp only [apply_ite (ReadHalf.finish rh)]
  rfl

/-- A Ping's checks: the flags, then the id (R251). -/
theorem rdPing_endsAfter (id : Word) :
    EndsAfter (rdPing h) (be32 id)
      (if h.flags ≠ 0 then .raised .invalidControlFrame 0 []
      else if id = 0 then .raised .zeroStreamId 0 []
      else .returned (.ping ⟨h.version, 0x0006#16, 0, h.length⟩ id) []) := by
  refine .last (get32_be32_append id) fun rh => ?_
  simp only [pingHeaderBad_iff, apply_ite (ReadHalf.finish rh)]
  split
  · rfl
  · rename_i hflags
    rw [cfOf, not_ne_iff.mp hflags]
    rfl

/-- A GoAway's check: the flags and the length; no field (R256). -/
theorem rdGoAway_endsAfter (w1 w2 : Word) :
    EndsAfter (rdGoAway h) (be32 w1 ++ be32 w2)
      (if h.flags ≠ 0 ∨ h.length ≠ 8 then .raised .invalidControlFrame 0 []
      else .returned (.goAway ⟨h.version, 0x0007#16, 0, 8⟩ (get31 w1) w2) []) := by
  refine .read (get31Word_be32_append w1) (.last (get32_be32_append w2) fun rh => ?_)
  simp only [fixedEightHeaderBad_iff, apply_ite (ReadHalf.finish rh)]
  split
  · rfl
  · rename_i hgood
    rw [cfOf_of_fixedEight _ hgood]
    rfl

/-- A WindowUpdate's checks: the flags and the length, then the id (R261). -/
theorem rdWindowUpdate_endsAfter (w1 w2 : Word) :
    EndsAfter (rdWindowUpdate h) (be32 w1 ++ be32 w2)
      (if h.flags ≠ 0 ∨ h.length ≠ 8 then .raised .invalidControlFrame (get31 w1) []
      else if get31 w1 = 0 then .raised .zeroStreamId 0 []
      else .returned (.windowUpdate ⟨h.version, 0x0009#16, 0, 8⟩ (get31 w1) (get31 w2)) []) := by
  refine .read (get31Word_be32_append w1) (.last (get31Word_be32_append w2) fun rh => ?_)
  simp only [fixedEightHeaderBad_iff, apply_ite (ReadHalf.finish rh)]
  split
  · rfl
  · rename_i hgood
    rw [cfOf_of_fixedEight _ hgood]
    rfl

/-- A Settings frame has no check: the entries its count says (R246). -/
theorem rdSettings_endsAfter {n : Word} {es : List SettingsEntry} (hn : es.length = n.toNat) :
    EndsAfter (rdSettings h) (be32 n ++ es.flatMap SettingsEntry.wire)
      (.returned (.settings (cfOf .settings h) es) []) :=
  .read (get32_be32_append n) <| .last (fun rest => hn ▸ getSettingsEntries_flatMap_append es rest) fun _ => rfl

/-! ## The bytes each rule needs (R135) -/

theorem rdRstStream_needsBytes : NeedsBytes 8 (rdRstStream h) :=
  .read get31Word_takes fun _ => .read get32_takes fun _ => .zero

theorem rdPing_needsBytes : NeedsBytes 4 (rdPing h) := .read get32_takes fun _ => .zero

theorem rdGoAway_needsBytes : NeedsBytes 8 (rdGoAway h) :=
  .read get31Word_takes fun _ => .read get32_takes fun _ => .zero

theorem rdWindowUpdate_needsBytes : NeedsBytes 8 (rdWindowUpdate h) :=
  .read get31Word_takes fun _ => .read get31Word_takes fun _ => .zero

theorem rdSettings_needsBytes : NeedsBytes 4 (rdSettings h) := .read get32_takes fun _ => .zero

/-- A source with fewer bytes than the entries its count says (R246). -/
theorem rdSettings_runsDry {rh : ReadHalf} {n : Word} {rest : Bytes} (hb : rh.source.bytes = be32 n ++ rest)
    (hlen : rest.length < 8 * n.toNat) : RunsDry (rdSettings h rh) rh := by
  rw [rdSettings, read_some _ (hb ▸ get32_be32_append n rest)]
  exact .of_consumeTo (rest := rest) (by simp [hb]) (.read _ ((getSettingsEntries_takes _).eq_none hlen))

end

/-- Settles O28: the two words, then the checks of the status and the id. -/
theorem rstStreamReadOutcome : Obligations.RstStreamReadOutcome := by
  unfold Obligations.RstStreamReadOutcome
  intro h hdr payload s hs h8 hb
  refine ⟨fun hshort => ?_, fun w1 w2 rest hp => ?_⟩
  · exact exec_runsShort hs rfl h8 hb rdRstStream_needsBytes hshort
  · exact exec_endsAfter rfl hs rfl h8 (hp ▸ hb) (rdRstStream_endsAfter w1 w2)

/-- Settles O29: the count, then as many entries as it says. -/
theorem settingsReadOutcome : Obligations.SettingsReadOutcome := by
  unfold Obligations.SettingsReadOutcome
  intro h hdr payload s hs h8 hb
  refine ⟨fun hshort => ?_, fun n rest hp hshort => ?_, fun n es rest hn hp => ?_⟩
  · exact exec_runsShort hs rfl h8 hb rdSettings_needsBytes hshort
  · exact exec_runsDry hs rfl h8 hb (rdSettings_runsDry hp hshort)
  · have hlen : 8 + (be32 n ++ es.flatMap SettingsEntry.wire).length = 12 + 8 * n.toNat := by
      rw [List.length_append, length_be32, length_flatMap_wire, hn, ← Nat.add_assoc]
    exact exec_endsAfter hlen hs rfl h8 (hp ▸ hb) (rdSettings_endsAfter hn)

/-- Settles O30: the word, then the checks of the flags and the id. -/
theorem pingReadOutcome : Obligations.PingReadOutcome := by
  unfold Obligations.PingReadOutcome
  intro h hdr payload s hs h8 hb
  refine ⟨fun hshort => ?_, fun id rest hp => ?_⟩
  · exact exec_runsShort hs rfl h8 hb rdPing_needsBytes hshort
  · exact exec_endsAfter rfl hs rfl h8 (hp ▸ hb) (rdPing_endsAfter id)

/-- Settles O31: the two words, then the check of the flags and the length. -/
theorem goAwayReadOutcome : Obligations.GoAwayReadOutcome := by
  unfold Obligations.GoAwayReadOutcome
  intro h hdr payload s hs h8 hb
  refine ⟨fun hshort => ?_, fun w1 w2 rest hp => ?_⟩
  · exact exec_runsShort hs rfl h8 hb rdGoAway_needsBytes hshort
  · exact exec_endsAfter rfl hs rfl h8 (hp ▸ hb) (rdGoAway_endsAfter w1 w2)

/-- Settles O32: the two words, then the checks of the flags and the length, and of the id. -/
theorem windowUpdateReadOutcome : Obligations.WindowUpdateReadOutcome := by
  unfold Obligations.WindowUpdateReadOutcome
  intro h hdr payload s hs h8 hb
  refine ⟨fun hshort => ?_, fun w1 w2 rest hp => ?_⟩
  · exact exec_runsShort hs rfl h8 hb rdWindowUpdate_needsBytes hshort
  · exact exec_endsAfter rfl hs rfl h8 (hp ▸ hb) (rdWindowUpdate_endsAfter w1 w2)

end Sys2Proof.Machine

namespace Sys2Proof

/-! # The data frame: the outcome of Data, in every case -/

/-! ## The frame a Data command is emitted as (R83, R84, R125) -/

theorem DataCmd.streamId_lt {f : DataCmd} (h : f.wellFormed = true) : f.streamId < 2 ^ 32 := by
  simp only [DataCmd.wellFormed, Bool.and_eq_true, fits, decide_eq_true_eq] at h
  exact h.1

theorem DataCmd.frame_eq (f : DataCmd) :
    dataFrame f =
      be32 (BitVec.ofNat 32 f.streamId) ++ [BitVec.ofNat 8 f.flags] ++
        Machine.be24 (BitVec.ofNat 24 f.data.length) ++ f.data := by
  rw [dataFrame, dataHeaderBytes, Machine.be32_lengthWord, List.append_assoc (be32 _) [_]]
  rfl

end Sys2Proof

namespace Sys2Proof.Machine

/-! ## The checks of a Data encode, in their order (R300) -/

section
variable {cfg : Cfg} {f : DataCmd} {wh : WriteHalf}

theorem wrData_of_topBit (htop : controlBit (word f.streamId) = true) :
    wrData cfg f wh = some (wh.finish .invalidDataFrame (maskedId f.streamId)) := if_pos htop

theorem wrData_of_tooLong (htop : ¬ controlBit (word f.streamId) = true) (hlong : f.data.length > cfg.dataMaxLen.toNat) :
    wrData cfg f wh = some (wh.finish .invalidDataFrame (maskedId f.streamId)) :=
  (if_neg htop).trans (if_pos hlong)

theorem wrData_of_zero (hzero : word f.streamId = 0) (hlen : f.data.length ≤ cfg.dataMaxLen.toNat) :
    wrData cfg f wh = some (wh.finish .zeroStreamId 0) := by
  have htop : ¬ controlBit (word f.streamId) = true := by rw [hzero]; decide
  rw [wrData, if_neg htop, if_neg hlen.not_gt, if_pos hzero]

theorem wrData_emits (htop : ¬ controlBit (word f.streamId) = true) (hlen : f.data.length ≤ cfg.dataMaxLen.toNat)
    (hid : ¬ word f.streamId = 0) : wrData cfg f wh = emit (dataFrame f) wh id := by
  rw [wrData, if_neg htop, if_neg hlen.not_gt, if_neg hid]

end

/-- A command whose rule comes to the emission of a frame emits it (R123, R125). -/
theorem exec_emits {s : State} {i : Instr} {frame : Bytes} (hs : s.canWrite) (hwf : i.wellFormed = true)
    (hi : i.isRead = false) (hrule : writeRule Config.engine s.cfg i s.wh = emit frame s.wh id) :
    s.emits s frame (exec i s) := by
  rw [exec_write hi, hwf, writeFrame_runs _ hs, hrule]
  exact emits_of_emit rfl rfl fun _ _ => rfl

/-- Settles O23: the check of bit 31, of the length against CFG, of the whole id, then the emission. -/
theorem dataWriteOutcome : Obligations.DataWriteOutcome := by
  unfold Obligations.DataWriteOutcome
  intro f s hs hwf
  have hfit := DataCmd.streamId_lt hwf
  rw [← f.frame_eq, ← maskedId_eq, ← not_le, ge_iff_le, ← controlBit_word hfit, Nat.pos_iff_ne_zero, Ne,
    ← word_eq_zero hfit]
  refine ⟨fun htop => ?_, fun htop hlong => ?_, fun hzero hlen => ?_, fun hid htop hlen => ?_⟩
  · exact exec_writeRaised hs hwf rfl (wrData_of_topBit htop)
  · exact exec_writeRaised hs hwf rfl (wrData_of_tooLong htop hlong)
  · exact exec_writeRaised hs hwf rfl (wrData_of_zero hzero hlen)
  · exact exec_emits hs hwf rfl (wrData_emits htop hlen hid)

/-! ## A Data decode: the payload, then one result (R301) -/

theorem getBytes_takes (n : Nat) : Takes n (getBytes n) := by
  intro bs a rest h
  obtain ⟨rfl, hlen⟩ := getBytes_eq_some h
  rw [List.length_append, hlen]

section
variable {h : DataHeader}

theorem rdData_needsBytes : NeedsBytes h.length.toNat (rdData h) :=
  .read (getBytes_takes _) fun _ => (Nat.sub_self h.length.toNat).symm ▸ .zero

/-- The one check, after the whole payload: the id (R301). -/
theorem rdData_endsAfter {data : Bytes} (hlen : data.length = h.length.toNat) :
    EndsAfter (rdData h) data
      (if h.streamId = 0 then .raised .zeroStreamId 0 [] else .returned (.data h.streamId h.flags data) []) := by
  refine .last (fun _ => getBytes_append hlen) fun rh => ?_
  rw [apply_ite (ReadHalf.finish rh)]
  rfl

end

/-- Settles O33: as many payload bytes as the header says, then the check of the id. -/
theorem dataReadOutcome : Obligations.DataReadOutcome := by
  unfold Obligations.DataReadOutcome
  intro h hdr payload s hs h8 hb
  refine ⟨fun hshort => ?_, fun hall => ?_⟩
  · exact exec_runsShort hs rfl h8 hb rdData_needsBytes hshort
  · have hdata : (payload.take h.length.toNat).length = h.length.toNat := List.length_take_of_le hall
    rw [← List.take_append_drop h.length.toNat payload] at hb
    exact exec_endsAfter (congrArg (8 + ·) hdata) hs rfl h8 hb (rdData_endsAfter hdata)

end Sys2Proof.Machine

namespace Sys2Proof.Machine

/-! # The exceptions family: what breaks a half, what an operation leaves alone, how a run ends -/

/-! ## A BROKEN half (R331) -/

theorem writeFrame_broken {s : State} (wf : Bool) (rule : WriteHalf → Option WriteHalf) (hl : s.life = .live)
    (hb : s.wh.run = .broken) : writeFrame wf rule s = .fault (.brokenHalf .write) := by
  simp [writeFrame, hl, hb]

theorem readFrame_broken {s : State} (rule : ReadHalf → Option ReadHalf) (hl : s.life = .live)
    (hb : s.rh.run = .broken) : readFrame rule s = .fault (.brokenHalf .read) := by
  simp [readFrame, hl, hb]

/-- Settles O36: the fault comes before the rule, whatever the instruction. -/
theorem brokenHalfFaults : Obligations.BrokenHalfFaults := by
  unfold Obligations.BrokenHalfFaults
  intro i s hl
  refine ⟨fun hi hb => ?_, fun hi hb => ?_⟩
  · rw [exec_write hi, writeFrame_broken _ _ hl hb]
  · rw [exec_read hi, readFrame_broken _ hl hb]

/-! ## DISCARD (R350) -/

theorem getBytes_of_le {n : Nat} {bs : Bytes} (h : n ≤ bs.length) : getBytes n bs = some (bs.take n, bs.drop n) :=
  if_pos h

/-- DISCARD of bytes that are there consumes them (R350). -/
theorem discardBytes_of_le {n : Nat} {rh : ReadHalf} (h : n ≤ rh.source.bytes.length) :
    discardBytes n rh = some (rh.consumeTo (rh.source.bytes.drop n)) := by
  rw [discardBytes, srcRead_some (getBytes_of_le h)]

/-- Settles O40: with no READ_FRAME in progress a DISCARD is the consumption of its bytes. -/
theorem discardConsumesSourceBytes : Obligations.DiscardConsumesSourceBytes := by
  unfold Obligations.DiscardConsumesSourceBytes
  intro s n rest hreq hn
  have hpos : s.rh.source.bytes.length - (s.rh.source.bytes.length - n) = n := by omega
  simp [hostAction, hreq, discardBytes_of_le hn, ReadHalf.consumeTo, hpos]

/-! ## The end of a run (R351) -/

/-- With no operation in progress and nothing left outside, a step is no move (R351). -/
theorem step_of_idle {s : State} (hw : s.wh.request = none) (hr : s.rh.request = false) (hh : s.host = [])
    (ht : s.turns = []) : step s = .next s := by
  simp [step, defaultStep, writeOrHostStep, hostStep, hw, hr, hh, ht]

/-- What the peer and the transport still do at the ports leaves nothing more to do and the outcome as it was (R351, R352). -/
theorem hostStep_of_settled {s : State} (h : s.settled) :
    ∃ t, hostStep s = .next t ∧ t.settled ∧ t.outcome none = s.outcome none := by
  obtain ⟨hbusy, hdone⟩ := h
  cases hhost : s.host with
  | nil => exact ⟨s, by rw [hostStep, hhost], ⟨hbusy, hdone⟩, rfl⟩
  | cons a rest =>
    obtain ⟨hport, hrest⟩ : a.byHost = false ∧ rest.all (fun a => !a.byHost) = true := by
      simpa [State.hostIsDone, hhost] using hdone
    rw [hostStep, hhost]
    cases a with
    | sourceSupplies bs ending => exact ⟨_, rfl, ⟨hbusy, hrest⟩, rfl⟩
    | sinkBecomes port => exact ⟨_, rfl, ⟨hbusy, hrest⟩, rfl⟩
    | reset | writeFrame | readFrame | discard | release => cases hport

/-- With nothing left to do, a step passes the turn or is the ports' move. -/
theorem step_of_settled {s : State} (h : s.settled) :
    ∃ t, step s = .next t ∧ t.settled ∧ t.outcome none = s.outcome none := by
  obtain ⟨hw, hr⟩ : s.wh.request = none ∧ s.rh.request = false := by simpa [State.busy] using h.1
  cases ht : s.turns with
  | nil =>
    have hstep : step s = hostStep s := by simp [step, ht, defaultStep, writeOrHostStep, hr, hw]
    exact hstep ▸ hostStep_of_settled h
  | cons a turns =>
    have hstep : step s = agentStep a { s with turns := turns } := by rw [step, ht]
    rw [hstep]
    cases a with
    | host => exact hostStep_of_settled (s := { s with turns := turns }) h
    | half side =>
      refine ⟨{ s with turns := turns }, ?_, h, rfl⟩
      cases side <;> simp [agentStep, hr, hw]

theorem run_of_settled (n : Nat) {s : State} (h : s.settled) :
    endsWell n s ∧ (run n s).1.outcome none = s.outcome none := by
  induction n generalizing s with
  | zero => exact ⟨⟨h, rfl⟩, rfl⟩
  | succ n ih =>
    obtain ⟨t, hstep, ht, hout⟩ := step_of_settled h
    rw [endsWell, run, hstep, ← hout]
    exact ih ht

/-- A fault or refusal recorded stays recorded (R351). -/
theorem run_add_of_stopped (n m : Nat) {s : State} (h : (run n s).2 ≠ none) : run (n + m) s = run n s := by
  induction n generalizing s with
  | zero => exact absurd rfl h
  | succ n ih =>
    rw [Nat.add_right_comm]
    cases hstep : step s with
    | next t =>
      rw [run, hstep] at h
      simpa only [run, hstep] using ih h
    | fault | refused => simp only [run, hstep]

/-- Settles O49: a settled state's steps only move the ports, and a run that has recorded a stop goes no further. -/
theorem anEndedRunStaysAsItIs : Obligations.AnEndedRunStaysAsItIs := by
  unfold Obligations.AnEndedRunStaysAsItIs
  refine ⟨fun s hw hr hh ht => step_of_idle hw hr hh ht, fun n s h => ?_, fun n m s h => ?_⟩
  · obtain ⟨hend, hout⟩ := run_of_settled n h
    exact ⟨hend, by rw [runOutcome, hend.2, hout]⟩
  · have hrun := run_add_of_stopped n m h
    exact ⟨hrun, fun hend => h (hrun ▸ hend.2)⟩

/-! ## What each half's operation is a function of (R337) -/

/-- READ_FRAME answers the next state in which its own half has read, or waited. -/
theorem exec_read_next_iff {i : Instr} (hi : i.isRead = true) {s t : State} :
    exec i s = .next t ↔
      s.canRead ∧ t = { s with rh := (readHeader s.rh (readRule Config.engine s.cfg i)).getD s.rh } := by
  rw [exec_read hi]
  constructor
  · intro h
    obtain ⟨hs, ⟨rh, hr, rfl⟩ | ⟨hr, rfl⟩⟩ := readFrame_next h <;> exact ⟨hs, by rw [hr]; rfl⟩
  · rintro ⟨hs, rfl⟩
    rw [readFrame_runs _ hs]
    cases readHeader s.rh (readRule Config.engine s.cfg i) <;> rfl

/-- WRITE_FRAME answers the next state in which its own half has written, or waited. -/
theorem exec_write_next_iff {i : Instr} (hi : i.isRead = false) {s t : State} :
    exec i s = .next t ↔
      s.canWrite ∧ i.wellFormed = true ∧
        t = { s with wh := (writeRule Config.engine s.cfg i s.wh).getD s.wh } := by
  rw [exec_write hi]
  constructor
  · intro h
    obtain ⟨hs, hwf, ⟨wh, hw, rfl⟩ | ⟨hw, rfl⟩⟩ := writeFrame_next h <;> exact ⟨hs, hwf, by rw [hw]; rfl⟩
  · rintro ⟨hs, hwf, rfl⟩
    rw [hwf, writeFrame_runs _ hs]
    cases writeRule Config.engine s.cfg i s.wh <;> rfl

theorem exec_read_withWriteHalf {i : Instr} {s t : State} (hi : i.isRead = true) (h : exec i s = .next t)
    (wh : WriteHalf) : exec i { s with wh := wh } = .next { t with wh := wh } := by
  obtain ⟨hs, rfl⟩ := (exec_read_next_iff hi).mp h
  exact (exec_read_next_iff hi).mpr ⟨hs, rfl⟩

theorem exec_write_withReadHalf {i : Instr} {s t : State} (hi : i.isRead = false) (h : exec i s = .next t)
    (rh : ReadHalf) : exec i { s with rh := rh } = .next { t with rh := rh } := by
  obtain ⟨hs, hwf, rfl⟩ := (exec_write_next_iff hi).mp h
  exact (exec_write_next_iff hi).mpr ⟨hs, hwf, rfl⟩

/-- Settles O54: what a half's operation answers is a function of its own half, CFG and the block's life. -/
theorem halvesDoNotSeeEachOther : Obligations.HalvesDoNotSeeEachOther := by
  unfold Obligations.HalvesDoNotSeeEachOther
  exact ⟨fun i s t wh hi h => exec_read_withWriteHalf hi h wh, fun i s t rh hi h => exec_write_withReadHalf hi h rh⟩

/-- Settles O53: each half's operation puts in only its own half, and neither sees the other's. -/
theorem halvesCommute : Obligations.HalvesCommute := by
  unfold Obligations.HalvesCommute
  intro iw ir s sw sr hiw hir hw hr
  obtain ⟨_, _, rfl⟩ := (exec_write_next_iff hiw).mp hw
  obtain ⟨_, rfl⟩ := (exec_read_next_iff hir).mp hr
  exact ⟨_, exec_read_withWriteHalf hir hr _, exec_write_withReadHalf hiw hw _⟩

/-! ## How a WRITE_FRAME ends (R120, R200, R330) -/

/-- `wh` with another compressor state and scratch buffer: all that an encode changes before its frame goes to the
sink (R172, R173). -/
def WriteHalf.encoded (wh : WriteHalf) (zc : Option CState) (scratch : Bytes) : WriteHalf :=
  { wh with zc := zc, scratch := scratch }

@[simp] theorem WriteHalf.encoded_run (wh : WriteHalf) (zc : Option CState) (scratch : Bytes) :
    (wh.encoded zc scratch).run = wh.run := rfl

/-- What the rule of the command form `i` can leave of the write half `wh` when it answers: an error before any byte that is no
row of R330, the over-long frame in compressed mode, the whole frame and OK, or a front part of it and the transport's error. -/
inductive WriteEnds (i : Instr) (cfg : Cfg) (wh : WriteHalf) : WriteHalf → Prop
  | raised {zc : Option CState} {scratch : Bytes} {st : Status} {sid : StreamId} (hst : st ≠ .ok)
      (hrow : st.breaks (headerBearing i) cfg.nocomp = false)
      (hzc : headerBearing i = false ∨ cfg.nocomp = true → zc = wh.zc) :
      WriteEnds i cfg wh ((wh.encoded zc scratch).finish st sid)
  | overlong {zc : Option CState} {scratch : Bytes} {sid : StreamId} (hi : headerBearing i = true)
      (hn : cfg.nocomp = false) :
      WriteEnds i cfg wh ((wh.encoded zc scratch).breakHalf.finish .invalidControlFrame sid)
  | wrote {zc : Option CState} {scratch frame : Bytes} {port : SinkPort} (hscratch : wh.scratch = [] → scratch = [])
      (hzc : headerBearing i = false ∨ cfg.nocomp = true → zc = wh.zc)
      (hframe : headerBearing i = false ∨ cfg.nocomp = true ∧ wh.scratch = [] → frame = encode i) :
      WriteEnds i cfg wh (((wh.encoded zc scratch).accept frame port).finish .ok 0)
  | failed {zc : Option CState} {scratch frame : Bytes} {room e : Nat}
      (hzc : headerBearing i = false ∨ cfg.nocomp = true → zc = wh.zc)
      (hframe : headerBearing i = false ∨ cfg.nocomp = true ∧ wh.scratch = [] → frame = encode i) :
      WriteEnds i cfg wh
        (((wh.encoded zc scratch).accept (frame.take room) (.failsAfter 0 e)).breakHalf.finish (.ioError (.transport e)) 0)

/-- Every answer of the write rule `rule` is one `WriteEnds` lists. -/
def WritesAs (i : Instr) (cfg : Cfg) (rule : WriteHalf → Option WriteHalf) : Prop :=
  ∀ wh wh', rule wh = some wh' → WriteEnds i cfg wh wh'

namespace WritesAs

variable {i : Instr} {cfg : Cfg}

theorem raised {st : Status} {sid : StreamId} (hst : st ≠ .ok := by simp)
    (hrow : st.breaks (headerBearing i) cfg.nocomp = false := by rfl) :
    WritesAs i cfg fun wh => some (wh.finish st sid) :=
  fun wh _ h => Option.some.inj h ▸ .raised (zc := wh.zc) (scratch := wh.scratch) hst hrow fun _ => rfl

theorem ite {c : Prop} [Decidable c] {r₁ r₂ : WriteHalf → Option WriteHalf} (h₁ : WritesAs i cfg r₁)
    (h₂ : WritesAs i cfg r₂) : WritesAs i cfg fun wh => if c then r₁ wh else r₂ wh := by
  by_cases hc : c
  · simpa only [hc, if_true] using h₁
  · simpa only [hc, if_false] using h₂

/-- The emission of a frame without a header block (R123, R125). -/
theorem emit {frame : Bytes} (hframe : frame = encode i) : WritesAs i cfg fun wh => Machine.emit frame wh id := by
  intro wh wh' h
  obtain rfl | ⟨room, e, _, _, rfl⟩ := emit_cases h
  · exact .wrote (zc := wh.zc) (scratch := wh.scratch) id (fun _ => rfl) fun _ => hframe
  · exact .failed (zc := wh.zc) (scratch := wh.scratch) (fun _ => rfl) fun _ => hframe

/-- EMIT_CTRL of a frame without a header block: the over-long frame breaks nothing (R123, R330). -/
theorem emitCtrl {k : ControlKind} {flags : BitVec 8} {payload : Bytes} {sid : StreamId}
    (hi : headerBearing i = false := by rfl) (hframe : controlFrame k flags payload = encode i := by rfl) :
    WritesAs i cfg fun wh => Machine.emitCtrl k flags payload sid wh id :=
  .ite (.raised (hrow := by simp [Status.breaks, hi])) (.emit hframe)

end WritesAs

/-- HB_ENCODE changes the compressor and the scratch buffer; in raw mode it appends the block to the latter (R172, R173). -/
theorem hbEncode_eq_encoded (eng : Engine) (cfg : Cfg) (hl : HeaderList) (wh : WriteHalf) :
    ∃ zc scratch, hbEncode eng cfg hl wh = wh.encoded zc scratch ∧
      (cfg.nocomp = true → zc = wh.zc ∧ scratch = wh.scratch ++ hbSerialize hl) := by
  cases hn : cfg.nocomp with
  | true => exact ⟨wh.zc, _, hbEncode_raw hn, fun _ => ⟨rfl, rfl⟩⟩
  | false => exact ⟨_, _, by rw [hbEncode, if_neg (by simp [hn])]; rfl, fun h => by cases h⟩

/-- A header-bearing encode ends in one of the four ways (R200). -/
theorem WritesAs.hbWrite {i : Instr} {eng : Engine} {cfg : Cfg} {k : ControlKind} {fixed : Bytes} {hl : HeaderList}
    {sid : StreamId} {flags : BitVec 8} (hi : headerBearing i = true := by rfl)
    (hframe : controlFrame k flags (fixed ++ hbSerialize hl) = encode i := by rfl) :
    WritesAs i cfg (Machine.hbWrite eng cfg k fixed hl sid flags) := by
  intro wh wh' h
  obtain ⟨zc, scratch, henc, hraw⟩ := hbEncode_eq_encoded eng cfg hl wh
  have hzc (hq : headerBearing i = false ∨ cfg.nocomp = true) : zc = wh.zc :=
    (hraw (hq.resolve_left (by simp [hi]))).1
  have hsame (hq : headerBearing i = false ∨ cfg.nocomp = true ∧ wh.scratch = []) :
      controlFrame k flags (fixed ++ scratch) = encode i := by
    obtain ⟨hn, hempty⟩ := hq.resolve_left (by simp [hi])
    rw [(hraw hn).2, hempty, List.nil_append, hframe]
  have hcases := hbWrite_cases h
  rw [henc] at hcases
  obtain ⟨_, ⟨hn, rfl⟩ | ⟨hn, rfl⟩⟩ | ⟨hlen, hemit⟩ := hcases
  · exact .raised (zc := zc) (scratch := []) (by simp) (by simp [Status.breaks, hn]) hzc
  · exact .overlong hi hn
  · rw [Machine.emitCtrl, if_neg (by omega)] at hemit
    obtain rfl | ⟨room, e, _, _, rfl⟩ := emit_cases hemit
    · exact .wrote (zc := zc) (scratch := []) (fun _ => rfl) hzc hsame
    · exact .failed hzc hsame

/-- Every WRITE_FRAME ends in one of the four ways. -/
theorem writeRule_writesAs (eng : Engine) (cfg : Cfg) (i : Instr) : WritesAs i cfg (writeRule eng cfg i) := by
  cases i <;> rename_i form <;> cases form
  case synStream.write | synReply.write | headers.write => exact .ite .raised .hbWrite
  case settings.write | ping.write | windowUpdate.write => exact .ite .raised .emitCtrl
  case rstStream.write => exact .ite .raised (.ite .raised .emitCtrl)
  case goAway.write f => exact .emitCtrl (payload := f.payload) (sid := 0)
  case data.write => exact .ite .raised (.ite .raised (.ite .raised (.emit rfl)))
  case unknownControlType.write => exact .raised
  all_goals exact fun _ _ h => by cases h

namespace WriteEnds

variable {i : Instr} {cfg : Cfg} {wh wh' : WriteHalf} {r : WResult}

/-- A READY half breaks in the rows of R330 and in no other. -/
theorem broken_iff (h : WriteEnds i cfg wh wh') (hready : wh.run = .ready) (hr : wh'.responses = wh.responses ++ [r]) :
    wh'.run = .broken ↔ r.status.breaks (headerBearing i) cfg.nocomp = true := by
  cases h <;> obtain rfl := List.singleton_inj.mp (List.append_cancel_left hr)
  case raised hrow _ => simp [hready, hrow]
  case overlong hi hn => simp [Status.breaks, hi, hn]
  case wrote => simp [Status.breaks, hready]
  case failed => simp [Status.breaks]

/-- Only the whole frame and the transport's error come with bytes in the sink (R325). -/
theorem sink_of_error (h : WriteEnds i cfg wh wh') (hr : wh'.responses = wh.responses ++ [r]) (hok : r.status ≠ .ok)
    (hio : ∀ e, r.status ≠ .ioError e) : wh'.sink = wh.sink ∧ wh'.sinkPos = wh.sinkPos := by
  cases h <;> obtain rfl := List.singleton_inj.mp (List.append_cancel_left hr)
  case raised | overlong => exact ⟨rfl, rfl⟩
  case wrote => exact absurd rfl hok
  case failed => exact absurd rfl (hio _)

/-- OK comes with the scratch buffer cleared, or never filled (R174). -/
theorem scratch_of_ok (h : WriteEnds i cfg wh wh') (hr : wh'.responses = wh.responses ++ [r]) (hok : r.status = .ok)
    (hempty : wh.scratch = []) : wh'.run = wh.run ∧ wh'.scratch = [] := by
  cases h <;> obtain rfl := List.singleton_inj.mp (List.append_cancel_left hr)
  case raised hst _ _ => exact absurd hok hst
  case overlong | failed => cases hok
  case wrote hscratch _ _ => exact ⟨rfl, hscratch hempty⟩

theorem compressor (h : WriteEnds i cfg wh wh') (hq : headerBearing i = false ∨ cfg.nocomp = true) : wh'.zc = wh.zc := by
  cases h
  case raised hzc | wrote hzc _ | failed hzc _ => exact hzc hq
  case overlong hi hn => simp [hi, hn] at hq

/-- The sink only gains bytes, and WH.sink_pos counts them: none, the frame, or a front part of it (R54, R325). -/
theorem appends (h : WriteEnds i cfg wh wh') :
    ∃ part, wh'.sink.accepted = wh.sink.accepted ++ part ∧ wh'.sinkPos = wh.sinkPos + part.length ∧
      (headerBearing i = false ∨ cfg.nocomp = true ∧ wh.scratch = [] → part <+: encode i) := by
  cases h
  case raised | overlong => exact ⟨[], (List.append_nil _).symm, rfl, fun _ => List.nil_prefix⟩
  case wrote hframe => exact ⟨_, rfl, rfl, fun hq => hframe hq ▸ ⟨[], List.append_nil _⟩⟩
  case failed hframe => exact ⟨_, rfl, rfl, fun hq => hframe hq ▸ List.take_prefix _ _⟩

end WriteEnds

/-- A WRITE_FRAME that answers a next state changes the write half only: its rule has ended, or it waits. -/
theorem exec_write_ends {i : Instr} {s t : State} (hi : i.isRead = false) (h : exec i s = .next t) :
    s.canWrite ∧ ((∃ wh, WriteEnds i s.cfg s.wh wh ∧ t = { s with wh := wh }) ∨ t = s) := by
  rw [exec_write hi] at h
  obtain ⟨hs, _, ⟨wh, hw, rfl⟩ | ⟨_, rfl⟩⟩ := writeFrame_next h
  · exact ⟨hs, .inl ⟨wh, writeRule_writesAs _ _ i _ _ hw, rfl⟩⟩
  · exact ⟨hs, .inr rfl⟩

/-- Settles O44: of a state a WRITE_FRAME changes the write half, and of that the compressor and the sink as its ending says. -/
theorem writeFrameLeavesTheRest : Obligations.WriteFrameLeavesTheRest := by
  unfold Obligations.WriteFrameLeavesTheRest
  intro i s t hi h
  obtain ⟨_, ⟨wh, hends, rfl⟩ | rfl⟩ := exec_write_ends hi h
  · exact ⟨rfl, rfl, rfl, rfl, rfl, rfl, hends.compressor, hends.appends⟩
  · exact ⟨rfl, rfl, rfl, rfl, rfl, rfl, fun _ => rfl, [], (List.append_nil _).symm, rfl, fun _ => List.nil_prefix⟩

/-! ## How a READ_FRAME ends (R130, R175, R330) -/

/-- `rh` with the source consumed up to `rest` and another decompressor state, fence and count of draws: all that a decode changes
before its result (R53, R176, R177). -/
def ReadHalf.decoded (rh : ReadHalf) (rest : Bytes) (zd : Option DState) (fence : Word) (draws : Nat) : ReadHalf :=
  { rh.consumeTo rest with zd := zd, fence := fence, draws := draws }

theorem ReadHalf.decoded_self (rh : ReadHalf) : rh.decoded rh.source.bytes rh.zd rh.fence rh.draws = rh := by
  simp [ReadHalf.decoded, ReadHalf.consumeTo]

/-- What READ_FRAME of the header form `i` can leave of the read half `rh` when it answers: a result that is no row of R330, or an
error that is one and the half BROKEN. -/
inductive ReadEnds (i : Instr) (cfg : Cfg) (rh : ReadHalf) : ReadHalf → Prop
  | ended {rest : Bytes} {zd : Option DState} {fence : Word} {draws : Nat} {r : RResult} (hrest : rest <:+ rh.source.bytes)
      (hkeeps : headerBearing i = false ∨ cfg.nocomp = true → zd = rh.zd ∧ fence = rh.fence ∧ draws = rh.draws)
      (hrow : r.status.breaks (headerBearing i) cfg.nocomp = false) :
      ReadEnds i cfg rh ((rh.decoded rest zd fence draws).finish r)
  | broke {rest : Bytes} {zd : Option DState} {fence : Word} {draws : Nat} {st : Status} (hrest : rest <:+ rh.source.bytes)
      (hkeeps : headerBearing i = false ∨ cfg.nocomp = true → zd = rh.zd ∧ fence = rh.fence ∧ draws = rh.draws)
      (hrow : st.breaks (headerBearing i) cfg.nocomp = true) :
      ReadEnds i cfg rh ((rh.decoded rest zd fence draws).breakHalf.raise st 0 [])

namespace ReadEnds

variable {i : Instr} {cfg : Cfg} {rh rh' : ReadHalf}

/-- What was consumed before counts as consumed by the operation. -/
theorem of_consumeTo {rest : Bytes} (hrest : rest <:+ rh.source.bytes) (h : ReadEnds i cfg (rh.consumeTo rest) rh') :
    ReadEnds i cfg rh rh' := by
  have hdecoded {rest' : Bytes} (hrest' : rest' <:+ rest) (zd : Option DState) (fence : Word) (draws : Nat) :
      (rh.consumeTo rest).decoded rest' zd fence draws = rh.decoded rest' zd fence draws := by
    simp only [ReadHalf.decoded, consumeTo_consumeTo _ _ _ hrest.length_le hrest'.length_le]
  cases h
  case ended hrest' hkeeps hrow =>
    rw [hdecoded hrest']
    exact .ended (hrest'.trans hrest) hkeeps hrow
  case broke hrest' hkeeps hrow =>
    rw [hdecoded hrest']
    exact .broke (hrest'.trans hrest) hkeeps hrow

/-- A result that consumes nothing more. -/
theorem finish {r : RResult} (hrow : r.status.breaks (headerBearing i) cfg.nocomp = false) :
    ReadEnds i cfg rh (rh.finish r) := by
  have h : ReadEnds i cfg rh ((rh.decoded rh.source.bytes rh.zd rh.fence rh.draws).finish r) :=
    .ended List.suffix_rfl (fun _ => ⟨rfl, rfl, rfl⟩) hrow
  rwa [rh.decoded_self] at h

/-- An error of R330 that consumes nothing more. -/
theorem breakHalf {st : Status} (hrow : st.breaks (headerBearing i) cfg.nocomp = true) :
    ReadEnds i cfg rh (rh.breakHalf.raise st 0 []) := by
  have h : ReadEnds i cfg rh ((rh.decoded rh.source.bytes rh.zd rh.fence rh.draws).breakHalf.raise st 0 []) :=
    .broke List.suffix_rfl (fun _ => ⟨rfl, rfl, rfl⟩) hrow
  rwa [rh.decoded_self] at h

/-- A source that ends or fails inside the frame breaks the half (R135). -/
theorem shortSource (e : IoReason) : ReadEnds i cfg rh ((rh.consumeTo []).breakHalf.raise (.ioError e) 0 []) :=
  (breakHalf rfl).of_consumeTo List.nil_suffix

end ReadEnds

/-- Every answer of the read rule `rule` is one `ReadEnds` lists. -/
def ReadsAs (i : Instr) (cfg : Cfg) (rule : ReadHalf → Option ReadHalf) : Prop :=
  ∀ rh rh', rule rh = some rh' → ReadEnds i cfg rh rh'

/-- The end `f` of a decode is a result that is no row of R330. -/
def EndsReady (i : Instr) (cfg : Cfg) (f : ReadHalf → ReadHalf) : Prop :=
  ∀ rh, ∃ r, f rh = rh.finish r ∧ r.status.breaks (headerBearing i) cfg.nocomp = false

namespace EndsReady

variable {i : Instr} {cfg : Cfg}

theorem raise {st : Status} {sid : StreamId} {diag : List Diagnostic}
    (hrow : st.breaks (headerBearing i) cfg.nocomp = false := by rfl) : EndsReady i cfg fun rh => rh.raise st sid diag :=
  fun _ => ⟨_, rfl, hrow⟩

theorem returnFrame {frame : Frame} {diag : List Diagnostic} : EndsReady i cfg fun rh => rh.returnFrame frame diag :=
  fun _ => ⟨_, rfl, rfl⟩

theorem ite {c : Prop} [Decidable c] {f g : ReadHalf → ReadHalf} (hf : EndsReady i cfg f) (hg : EndsReady i cfg g) :
    EndsReady i cfg fun rh => if c then f rh else g rh := by
  by_cases hc : c
  · simpa only [hc, if_true] using hf
  · simpa only [hc, if_false] using hg

/-- The checks after a block (R162, R324). -/
theorem finishHeaders {set : BannedSet} {sid : StreamId} {frame : HeaderMap → Frame} (acc : BlockAcc) :
    EndsReady i cfg (Machine.finishHeaders set sid frame acc) :=
  .ite .raise (.ite .raise .returnFrame)

end EndsReady

namespace ReadsAs

variable {i : Instr} {cfg : Cfg}

theorem answer {f : ReadHalf → ReadHalf} (hf : EndsReady i cfg f) : ReadsAs i cfg fun rh => some (f rh) := by
  intro rh rh' h
  obtain ⟨r, hr, hrow⟩ := hf rh
  obtain rfl : rh.finish r = rh' := hr ▸ Option.some.inj h
  exact .finish hrow

/-- READ, and what follows it (R135). -/
theorem read {α : Type} {p : Bytes → Option (α × Bytes)} {k : α → ReadHalf → Option ReadHalf}
    (hp : ∀ {bs rest : Bytes} {a : α}, p bs = some (a, rest) → rest <:+ bs) (hk : ∀ a, ReadsAs i cfg (k a)) :
    ReadsAs i cfg fun rh => Machine.read p rh k := by
  intro rh rh' h
  obtain ⟨a, rest, ha, hgo⟩ | ⟨_, e, rfl⟩ := read_cases h
  · exact (hk a _ _ hgo).of_consumeTo (hp ha)
  · exact .shortSource e

/-- The header read, and the rule after it; the clean end of the source breaks nothing (R130). -/
theorem readHeader {rule : ReadHalf → Option ReadHalf} (hr : ReadsAs i cfg rule) :
    ReadsAs i cfg fun rh => Machine.readHeader rh rule := by
  intro rh rh' h
  obtain ⟨w0, w1, rest, hb, hgo⟩ | ⟨_, _, rfl⟩ | ⟨_, e, rfl⟩ := readHeader_cases h
  · exact (hr _ _ hgo).of_consumeTo ⟨_, hb.symm⟩
  · exact (ReadEnds.finish rfl).of_consumeTo List.nil_suffix
  · exact .shortSource e

/-- The length precondition before a header-bearing decode, in compressed mode only (R201). -/
theorem afterLengthCheck {h : ReadHeader} {fixed : Nat} {rule : ReadHalf → Option ReadHalf} (hr : ReadsAs i cfg rule)
    (hi : headerBearing i = true := by rfl) :
    ReadsAs i cfg fun rh => if lengthTooSmall cfg h fixed then some (raiseTooSmall rh) else rule rh := by
  intro rh rh' hans
  split at hans
  case isTrue hsmall =>
    cases hans
    have hn : cfg.nocomp = false := by simpa using (Bool.and_eq_true_iff.mp hsmall).1
    have hrow : Status.invalidControlFrame.breaks (headerBearing i) cfg.nocomp = true := by simp [Status.breaks, hi, hn]
    exact .breakHalf hrow
  case isFalse => exact hr _ _ hans

/-- The fenced decode: every error inside it is a row of R330 (R177). -/
theorem hbDecodeZ {eng : Engine} {L : Nat} {sid : StreamId} {done : BlockAcc → ReadHalf → ReadHalf}
    (hi : headerBearing i = true) (hn : cfg.nocomp = false) (hdone : ∀ acc, EndsReady i cfg (done acc)) :
    ReadsAs i cfg fun rh => Machine.hbDecodeZ eng cfg L sid rh done := by
  intro rh rh' h
  have hkeeps {p : Prop} (hq : headerBearing i = false ∨ cfg.nocomp = true) : p := by simp [hi, hn] at hq
  have spoilt {rest : Bytes} (hrest : rest <:+ rh.source.bytes) (fence : Word) {st : Status}
      (hrow : st.breaks (headerBearing i) cfg.nocomp = true) :
      ReadEnds i cfg rh ({ (openFence eng cfg L rh).consumeTo rest with
        fence := fence }.spoilInflater.breakHalf.raise st 0 []) :=
    .broke (zd := some (Config.freeInflater rh.draws)) (draws := rh.draws + 1) hrest hkeeps hrow
  obtain ⟨_, st, hst, rfl⟩ | ⟨_, ⟨z, _, rfl⟩ | ⟨ds, out, _, _, rfl | ⟨acc, _, _, rfl⟩⟩⟩ := hbDecodeZ_cases h
  · exact spoilt List.nil_suffix _ (by rcases hst with rfl | ⟨e, rfl⟩ <;> rfl)
  · exact spoilt (List.drop_suffix _ _) _ rfl
  · exact spoilt (List.drop_suffix _ _) _ rfl
  · obtain ⟨r, hr, hrow⟩ := hdone acc { (openFence eng cfg L rh).consumeTo (rh.source.bytes.drop L) with
      fence := 0, zd := some ds }
    rw [hr]
    exact .ended (zd := some ds) (draws := rh.draws) (List.drop_suffix L _) hkeeps hrow

/-- HB_DECODE in either mode, and the checks after it (R175). -/
theorem hbDecode {eng : Engine} {length fixed : Nat} {sid : StreamId} {set : BannedSet} {frame : HeaderMap → Frame}
    (hi : headerBearing i = true := by rfl) :
    ReadsAs i cfg fun rh => Machine.hbDecode eng cfg length fixed sid rh (finishHeaders set sid frame) := by
  cases hn : cfg.nocomp with
  | true =>
    simp only [Machine.hbDecode, hn, if_true]
    exact .read hbParse_suffix fun acc => .answer (.finishHeaders acc)
  | false =>
    simp only [Machine.hbDecode, hn, Bool.false_eq_true, if_false]
    exact .hbDecodeZ hi hn .finishHeaders

end ReadsAs

/-- Every READ_FRAME ends READY with no row of R330, or BROKEN with one. -/
theorem readRule_readsAs (eng : Engine) (cfg : Cfg) (i : Instr) : ReadsAs i cfg (readRule eng cfg i) := by
  cases i <;> rename_i form <;> cases form
  case synStream.read =>
    exact .afterLengthCheck (.read get31Word_suffix fun _ => .read get31Word_suffix fun _ => .read get8_suffix fun _ =>
      .read get8_suffix fun _ => .hbDecode)
  case synReply.read | headers.read => exact .afterLengthCheck (.read get31Word_suffix fun _ => .hbDecode)
  case rstStream.read =>
    exact .read get31Word_suffix fun _ => .read get32_suffix fun _ => .answer (.ite .raise (.ite .raise .returnFrame))
  case settings.read =>
    exact .read get32_suffix fun _ => .read getSettingsEntries_suffix fun _ => .answer .returnFrame
  case ping.read => exact .read get32_suffix fun _ => .answer (.ite .raise (.ite .raise .returnFrame))
  case goAway.read =>
    exact .read get31Word_suffix fun _ => .read get32_suffix fun _ => .answer (.ite .raise .returnFrame)
  case windowUpdate.read =>
    exact .read get31Word_suffix fun _ => .read get31Word_suffix fun _ =>
      .answer (.ite .raise (.ite .raise .returnFrame))
  case data.read => exact .read getBytes_suffix fun _ => .answer (.ite .raise .returnFrame)
  case unknownControlType.read => exact .answer .raise
  all_goals exact fun _ _ h => by cases h

namespace ReadEnds

variable {i : Instr} {cfg : Cfg} {rh rh' : ReadHalf}

/-- A READY half breaks in the rows of R330 and in no other. -/
theorem broken_iff {r : RResult} (h : ReadEnds i cfg rh rh') (hready : rh.run = .ready)
    (hr : rh'.responses = rh.responses ++ [r]) :
    rh'.run = .broken ↔ r.status.breaks (headerBearing i) cfg.nocomp = true := by
  cases h <;> obtain rfl := List.singleton_inj.mp (List.append_cancel_left hr)
  case ended hrow => simp [ReadHalf.decoded, hready, hrow]
  case broke hrow => simp [hrow]

theorem inflater (h : ReadEnds i cfg rh rh') (hq : headerBearing i = false ∨ cfg.nocomp = true) :
    rh'.zd = rh.zd ∧ rh'.fence = rh.fence ∧ rh'.draws = rh.draws := by
  cases h
  case ended hkeeps _ | broke hkeeps _ => exact hkeeps hq

/-- The bytes left are the end of the source's, and RH.src_pos counts those consumed (R32, R53). -/
theorem consumes (h : ReadEnds i cfg rh rh') :
    rh'.source.ending = rh.source.ending ∧
      ∃ n, n ≤ rh.source.bytes.length ∧ rh'.source.bytes = rh.source.bytes.drop n ∧ rh'.srcPos = rh.srcPos + n := by
  have hdrop {rest : Bytes} (hrest : rest <:+ rh.source.bytes) :
      rest = rh.source.bytes.drop (rh.source.bytes.length - rest.length) := List.suffix_iff_eq_drop.mp hrest
  cases h
  case ended hrest _ _ | broke hrest _ _ => exact ⟨rfl, _, Nat.sub_le _ _, hdrop hrest, rfl⟩

end ReadEnds

/-- A READ_FRAME that answers a next state changes the read half only: its rule has ended, or it waits. -/
theorem exec_read_ends {i : Instr} {s t : State} (hi : i.isRead = true) (h : exec i s = .next t) :
    s.canRead ∧ ((∃ rh, ReadEnds i s.cfg s.rh rh ∧ t = { s with rh := rh }) ∨ t = s) := by
  rw [exec_read hi] at h
  obtain ⟨hs, ⟨rh, hr, rfl⟩ | ⟨_, rfl⟩⟩ := readFrame_next h
  · exact ⟨hs, .inl ⟨rh, (readRule_readsAs _ _ i).readHeader _ _ hr, rfl⟩⟩
  · exact ⟨hs, .inr rfl⟩

/-- Settles O45: of a state a READ_FRAME changes the read half, and of that the decompressor and the source as its ending says. -/
theorem readFrameLeavesTheRest : Obligations.ReadFrameLeavesTheRest := by
  unfold Obligations.ReadFrameLeavesTheRest
  intro i s t hi h
  obtain ⟨_, ⟨rh, hends, rfl⟩ | rfl⟩ := exec_read_ends hi h
  · exact ⟨rfl, rfl, rfl, rfl, rfl, rfl, hends.inflater, hends.consumes⟩
  · exact ⟨rfl, rfl, rfl, rfl, rfl, rfl, fun _ => ⟨rfl, rfl, rfl⟩, rfl, 0, Nat.zero_le _, rfl, rfl⟩

/-! ## Results and run states (R325, R330) -/

theorem exec_write_broken_iff {i : Instr} {s t : State} {r : WResult} (hi : i.isRead = false) (h : exec i s = .next t)
    (hr : t.wh.responses = s.wh.responses ++ [r]) :
    t.wh.run = .broken ↔ r.status.breaks (headerBearing i) s.cfg.nocomp = true := by
  obtain ⟨hs, ⟨wh, hends, rfl⟩ | rfl⟩ := exec_write_ends hi h
  · exact hends.broken_iff hs.2 hr
  · simp at hr

theorem exec_read_broken_iff {i : Instr} {s t : State} {r : RResult} (hi : i.isRead = true) (h : exec i s = .next t)
    (hr : t.rh.responses = s.rh.responses ++ [r]) :
    t.rh.run = .broken ↔ r.status.breaks (headerBearing i) s.cfg.nocomp = true := by
  obtain ⟨hs, ⟨rh, hends, rfl⟩ | rfl⟩ := exec_read_ends hi h
  · exact hends.broken_iff hs.2 hr
  · simp at hr

/-- Settles O41: the half that ends its operation breaks as its result says; one that returns nothing has waited, and the other
half is as it was. -/
theorem halvesBreakExactlyInTheRowsOfR330 : Obligations.HalvesBreakExactlyInTheRowsOfR330 := by
  unfold Obligations.HalvesBreakExactlyInTheRowsOfR330
  intro i s t h
  refine ⟨fun r hi hr => exec_write_broken_iff hi h hr, fun r hi hr => exec_read_broken_iff hi h hr, ?_⟩
  cases hi : i.isRead with
  | true =>
    obtain ⟨_, hwh, _⟩ := readFrameLeavesTheRest i s t hi h
    exact ⟨fun _ => by rw [hwh], fun hr => by rw [exec_read_noResult hi h hr]⟩
  | false =>
    obtain ⟨_, hrh, _⟩ := writeFrameLeavesTheRest i s t hi h
    exact ⟨fun hr => by rw [exec_write_noResult hi h hr], fun _ => by rw [hrh]⟩

/-- Settles O43: only a WRITE_FRAME returns a write result, and its ending says what came to the sink and the scratch buffer. -/
theorem errorsEmitNothing : Obligations.ErrorsEmitNothing := by
  unfold Obligations.ErrorsEmitNothing
  intro i s t r h hr hempty
  cases hi : i.isRead with
  | true =>
    obtain ⟨_, hwh, _⟩ := readFrameLeavesTheRest i s t hi h
    simp [hwh] at hr
  | false =>
    obtain ⟨hs, ⟨wh, hends, rfl⟩ | rfl⟩ := exec_write_ends hi h
    · refine ⟨fun ⟨hok, hio⟩ => hends.sink_of_error hr hok hio, fun hok => ?_⟩
      obtain ⟨hrun, hscratch⟩ := hends.scratch_of_ok hr hok hempty
      exact ⟨hrun.trans hs.2, hscratch⟩
    · simp at hr

end Sys2Proof.Machine

namespace Sys2Proof.Machine

/-! # The reset and hazards family: the block that is not there, the release, overlapping requests -/

/-! ## A block that is not live (R361, R363) -/

/-- Why a block with this life takes no operation and no release (R361, R363); a live one takes them. -/
def Life.refusal : Life → Option Refusal
  | .live => none
  | .initFailed => some .noBlock
  | .released => some .released

theorem Life.refusal_eq_some {l : Life} {r : Refusal} (h : l.refusal = some r) :
    (l = .initFailed ∧ r = .noBlock) ∨ (l = .released ∧ r = .released) := by
  cases l <;> cases h
  · exact .inl ⟨rfl, rfl⟩
  · exact .inr ⟨rfl, rfl⟩

theorem writeFrame_of_notLive {s : State} {r : Refusal} (wf : Bool) (rule : WriteHalf → Option WriteHalf)
    (h : s.life.refusal = some r) : writeFrame wf rule s = .refused r := by
  obtain ⟨hl, rfl⟩ | ⟨hl, rfl⟩ := Life.refusal_eq_some h <;> simp [writeFrame, hl]

theorem readFrame_of_notLive {s : State} {r : Refusal} (rule : ReadHalf → Option ReadHalf)
    (h : s.life.refusal = some r) : readFrame rule s = .refused r := by
  obtain ⟨hl, rfl⟩ | ⟨hl, rfl⟩ := Life.refusal_eq_some h <;> simp [readFrame, hl]

/-- A block that is not live refuses every operation, also one on a BROKEN half. -/
theorem exec_of_notLive {s : State} {r : Refusal} (h : s.life.refusal = some r) (i : Instr) : exec i s = .refused r := by
  cases hi : i.isRead with
  | true => rw [exec_read hi, readFrame_of_notLive _ h]
  | false => rw [exec_write hi, writeFrame_of_notLive _ _ h]

theorem hostAction_release_of_notLive {s : State} {r : Refusal} (h : s.life.refusal = some r) (rest : List HostAction) :
    hostAction .release rest s = .refused r := by
  obtain ⟨hl, rfl⟩ | ⟨hl, rfl⟩ := Life.refusal_eq_some h <;> simp [hostAction, hl]

/-! ## RESET (R360, R361) -/

/-- Settles O2: RESET constructs an idle block, here with a failed DEFLATE.init, and nothing is asked of what that leaves. -/
theorem initFailureLeavesNoBlock : Obligations.InitFailureLeavesNoBlock := by
  unfold Obligations.InitFailureLeavesNoBlock
  intro port source rest s hw hr
  exact ⟨_, hostAction_reset_of_idle false false port source rest hw hr, rfl, rfl, rfl, rfl, exec_of_notLive rfl,
    hostAction_release_of_notLive rfl⟩

/-- Settles O3: RESET leaves the values of State.reset; the counters, the turns and the outside actions that it lets stand are
State.reset's already. -/
theorem stateResetIsAResetInCompressedMode : Obligations.StateResetIsAResetInCompressedMode := by
  unfold Obligations.StateResetIsAResetInCompressedMode
  intro s hw hr hwd hrd ht
  obtain ⟨hvalues, _⟩ := resetActionLeavesTheValuesOfR40 false true .accepts ⟨[], .silent⟩ [] s hw hr
  rw [hvalues (.inr rfl), hwd, hrd, ht]
  rfl

/-! ## The release (R363) -/

theorem State.busy_iff (s : State) : s.busy = true ↔ s.wh.request ≠ none ∨ s.rh.request = true := by
  simp [State.busy, Option.isSome_iff_ne_none]

/-- A live block is released when no operation is in progress. -/
theorem hostAction_release_of_live {s : State} (hl : s.life = .live) (rest : List HostAction) :
    hostAction .release rest s =
      if s.wh.request ≠ none ∨ s.rh.request = true then .refused .overlap
      else .next { releaseBlock s with host := rest } := by
  simp only [hostAction, hl, State.busy_iff]

/-- Settles O38: a live block is released unless an operation is in progress, and a released one is not live. -/
theorem releaseEndsTheBlock : Obligations.ReleaseEndsTheBlock := by
  unfold Obligations.ReleaseEndsTheBlock
  intro s rest
  refine ⟨fun hl hbusy => ?_, fun hl hw hr => ?_, fun hl => ?_⟩
  · rw [hostAction_release_of_live hl, if_pos hbusy]
  · rw [hostAction_release_of_live hl, if_neg (by simp [hw, hr])]
    rfl
  · have h : s.life.refusal = some .released := by rw [hl]; rfl
    exact ⟨hostAction_release_of_notLive h rest, exec_of_notLive h⟩

/-! ## The command ports (R58, R370) -/

theorem hostAction_writeFrame (f : Command) (rest : List HostAction) (s : State) :
    hostAction (.writeFrame f) rest s =
      if s.wh.request = none then .next { s with wh := { s.wh with request := some f }, host := rest }
      else .refused .overlap := by
  cases hreq : s.wh.request <;> simp [hostAction, hreq]

theorem hostAction_readFrame (rest : List HostAction) (s : State) :
    hostAction .readFrame rest s =
      if s.rh.request = false then .next { s with rh := { s.rh with request := true }, host := rest }
      else .refused .overlap := by
  cases hreq : s.rh.request <;> simp [hostAction, hreq]

/-- Settles O39: each port looks at its own latch only. -/
theorem overlappingRequestsAreRefused : Obligations.OverlappingRequestsAreRefused := by
  unfold Obligations.OverlappingRequestsAreRefused
  intro s f rest
  refine ⟨fun hw => ?_, fun hr => ?_, fun hw => ?_, fun hr => ?_⟩
  · rw [hostAction_writeFrame, if_neg hw]
  · rw [hostAction_readFrame, if_neg (by simp [hr])]
  · rw [hostAction_writeFrame, if_pos hw]
  · rw [hostAction_readFrame, if_pos hr]

end Sys2Proof.Machine

namespace Sys2Proof

/-! # The round trip of the fixed-layout and data frames: what the encoder emits, the decoder reads back -/

/-! ## Commands on the wire as their decoder takes them apart (R83, R89, R90) -/

/-- The entry a reader finds where a Settings command's entry was emitted (R90). -/
def SettingsCmdEntry.asRead (e : SettingsCmdEntry) : Machine.SettingsEntry :=
  ⟨BitVec.ofNat 8 e.flag, BitVec.ofNat 24 e.id, BitVec.ofNat 32 e.value⟩

theorem SettingsCmdEntry.bytes_eq_wire_asRead (e : SettingsCmdEntry) : e.bytes = e.asRead.wire := e.bytes_eq

/-- A Settings payload is a count and as many entries as are read (R89). -/
theorem SettingsCmd.payload_eq_wire (f : SettingsCmd) :
    f.payload = be32 (word f.entries.length) ++ (f.entries.map SettingsCmdEntry.asRead).flatMap Machine.SettingsEntry.wire := by
  rw [SettingsCmd.payload, funext SettingsCmdEntry.bytes_eq_wire_asRead, List.flatMap_map]

/-- A stream id below 2^31 is the whole first word of a data frame, the control bit 0 (R83, R85). -/
theorem word_eq_setWidth_of_lt {n : Nat} (h : n < 2 ^ 31) : word n = (BitVec.ofNat 31 n).setWidth 32 := by
  have hbit : controlBit (word n) = false := by
    rw [← Bool.not_eq_true, Machine.controlBit_word (by omega)]
    omega
  rw [← Machine.maskedId_eq, Machine.maskedId, dataWord_fields _ hbit]

/-- The header that a reader finds in an emitted data frame (R83, R84). -/
def DataCmd.emittedHeader (f : DataCmd) : DataHeader :=
  ⟨BitVec.ofNat 31 f.streamId, BitVec.ofNat 8 f.flags, BitVec.ofNat 24 f.data.length⟩

theorem DataCmd.emittedHeader_streamId_ne_zero {f : DataCmd} (hpos : 0 < f.streamId) (hid : f.streamId < 2 ^ 31) :
    f.emittedHeader.streamId ≠ 0 := by
  rw [emittedHeader, ← Machine.maskedId_eq, Ne, Machine.maskedId_eq_zero]
  omega

theorem DataCmd.toNat_length_emittedHeader {f : DataCmd} (h : f.data.length ≤ 0xFFFFFF) :
    f.emittedHeader.length.toNat = f.data.length := by
  rw [emittedHeader, BitVec.toNat_ofNat, Nat.mod_eq_of_lt (by omega)]

/-- The decoder finds a data frame's header in an emitted one. -/
theorem decode_dataFrame_append {f : DataCmd} (h : f.streamId < 2 ^ 31) (rest : Bytes) :
    decode (dataFrame f ++ rest) = .ok (.data (.read f.emittedHeader), f.data ++ rest) := by
  rw [dataFrame, dataHeaderBytes, List.append_assoc, decode_words, word_eq_setWidth_of_lt h, decodeHeader_data]
  rfl

end Sys2Proof

namespace Sys2Proof.Machine

/-! ## What each read rule makes of its command's payload (R241, R246, R251, R256, R261, R301) -/

theorem rstStreamCmd_endsAfter {f : RstStreamCmd} {h : ReadHeader} (hwf : f.wellFormed = true) (hstatus : f.status ≠ 0)
    (hid : f.streamId % 2 ^ 31 ≠ 0) :
    EndsAfter (rdRstStream h) f.payload
      (.returned (.rstStream (cfOf .rstStream h) (BitVec.ofNat 31 f.streamId) (BitVec.ofNat 32 f.status)) []) := by
  have hend := rdRstStream_endsAfter (h := h) (put31 (word f.streamId)) (word f.status)
  rwa [get31_put31, ← maskedId, if_neg (mt (word_eq_zero (RstStreamCmd.status_lt hwf)).mp hstatus),
    if_neg (mt (maskedId_eq_zero _).mp hid), maskedId_eq] at hend

theorem settingsCmd_endsAfter {f : SettingsCmd} {h : ReadHeader} (hlen : f.entries.length < 2 ^ 32) :
    EndsAfter (rdSettings h) f.payload
      (.returned (.settings (cfOf .settings h) (f.entries.map SettingsCmdEntry.asRead)) []) := by
  rw [f.payload_eq_wire]
  exact rdSettings_endsAfter (by rw [List.length_map, toNat_word hlen])

theorem pingCmd_endsAfter {f : PingCmd} {h : ReadHeader} (hwf : f.wellFormed = true) (hid : f.id ≠ 0) (hflags : h.flags = 0) :
    EndsAfter (rdPing h) f.payload (.returned (.ping ⟨h.version, 0x0006#16, 0, h.length⟩ (BitVec.ofNat 32 f.id)) []) := by
  have hend := rdPing_endsAfter (h := h) (word f.id)
  rwa [if_neg (not_not.mpr hflags), if_neg (mt (word_eq_zero (PingCmd.id_lt hwf)).mp hid)] at hend

theorem goAwayCmd_endsAfter (f : GoAwayCmd) {h : ReadHeader} (hgood : ¬ (h.flags ≠ 0 ∨ h.length ≠ 8)) :
    EndsAfter (rdGoAway h) f.payload
      (.returned (.goAway ⟨h.version, 0x0007#16, 0, 8⟩ (BitVec.ofNat 31 f.lastGoodStreamId) (BitVec.ofNat 32 f.status)) []) := by
  have hend := rdGoAway_endsAfter (h := h) (put31 (word f.lastGoodStreamId)) (word f.status)
  rwa [get31_put31, ← maskedId, if_neg hgood, maskedId_eq] at hend

theorem windowUpdateCmd_endsAfter {f : WindowUpdateCmd} {h : ReadHeader} (hid : f.streamId % 2 ^ 31 ≠ 0)
    (hgood : ¬ (h.flags ≠ 0 ∨ h.length ≠ 8)) :
    EndsAfter (rdWindowUpdate h) f.payload
      (.returned (.windowUpdate ⟨h.version, 0x0009#16, 0, 8⟩ (BitVec.ofNat 31 f.streamId)
        (BitVec.ofNat 31 f.deltaWindowSize)) []) := by
  have hend := rdWindowUpdate_endsAfter (h := h) (put31 (word f.streamId)) (put31 (word f.deltaWindowSize))
  rwa [get31_put31, get31_put31, ← maskedId, ← maskedId, if_neg hgood, if_neg (mt (maskedId_eq_zero _).mp hid), maskedId_eq,
    maskedId_eq] at hend

theorem dataCmd_endsAfter {f : DataCmd} (hpos : 0 < f.streamId) (hid : f.streamId < 2 ^ 31) (hlen : f.data.length ≤ 0xFFFFFF) :
    EndsAfter (rdData f.emittedHeader) f.data
      (.returned (.data (BitVec.ofNat 31 f.streamId) (BitVec.ofNat 8 f.flags) f.data) []) := by
  have hend := rdData_endsAfter (DataCmd.toNat_length_emittedHeader hlen).symm
  rwa [if_neg (DataCmd.emittedHeader_streamId_ne_zero hpos hid)] at hend

/-! ## The whole frame (R99, R130) -/

section
variable {s : State} {r : RResult} {rest : Bytes}

/-- READ_FRAME whose decoded instruction ends after its fixed fields consumes the header and those, and ends with the result. -/
theorem readStep_endsAfter {i : Instr} {fields : Bytes} (hs : s.canRead) (hi : i.isRead = true)
    (hd : decode s.rh.source.bytes = .ok (i, fields ++ rest))
    (hr : EndsAfter (readRule Config.engine s.cfg i) fields r) : readStep s = .next (s.readEnded (8 + fields.length) r) := by
  obtain ⟨w0, w1, hb, -⟩ := decode_eq_ok hd
  rw [readStep_of_decode hd]
  exact exec_endsAfter rfl hs hi rfl hb hr

/-- READ_FRAME of an emitted control frame whose rule ends after the payload consumes exactly the frame. -/
theorem readStep_controlFrame {k : ControlKind} {flags : BitVec 8} {payload : Bytes} (hs : s.canRead)
    (hb : s.rh.source.bytes = controlFrame k flags payload ++ rest)
    (hr : EndsAfter (readRule Config.engine s.cfg (k.readInstr (emittedHeader k flags payload.length))) payload r) :
    readStep s = .next (s.readEnded (8 + payload.length) r) :=
  readStep_endsAfter hs (k.isRead_readInstr _) (hb ▸ decode_controlFrame_append k flags payload rest) hr

end

/-- An emitted GoAway or WindowUpdate passes its reader's check of the flags and the length (R122, R256, R261). -/
theorem emittedHeader_fixedEight {k : ControlKind} (hk : k = .goAway ∨ k = .windowUpdate) (flags : BitVec 8) :
    ¬ ((emittedHeader k flags 8).flags ≠ 0 ∨ (emittedHeader k flags 8).length ≠ 8) := by
  obtain rfl | rfl := hk <;> simp [emittedHeader, fillFlags]

/-- Settles O55: the decoder finds the header that was emitted, whose flags and length pass the checks, and reads the payload
back field by field. -/
theorem fixedFramesRoundTrip : Obligations.FixedFramesRoundTrip := by
  unfold Obligations.FixedFramesRoundTrip
  intro s rest hs
  refine ⟨fun f hwf hstatus hid hb => ?_, fun f _ hlen hb => ?_, fun f hwf hid hb => ?_, fun f _ hb => ?_,
    fun f _ hid hb => ?_, fun f _ hpos hid hlen hb => ?_⟩
  · exact readStep_controlFrame hs hb (rstStreamCmd_endsAfter hwf hstatus hid)
  · have hread := readStep_controlFrame hs hb (settingsCmd_endsAfter (by omega))
    rwa [f.length_payload, ← Nat.add_assoc] at hread
  · exact readStep_controlFrame hs hb (pingCmd_endsAfter hwf hid rfl)
  · exact readStep_controlFrame hs hb (goAwayCmd_endsAfter f (emittedHeader_fixedEight (.inl rfl) _))
  · exact readStep_controlFrame hs hb (windowUpdateCmd_endsAfter hid (emittedHeader_fixedEight (.inr rfl) _))
  · exact readStep_endsAfter (i := .data (.read _)) hs rfl (hb ▸ decode_dataFrame_append hid rest)
      (dataCmd_endsAfter hpos hid hlen)

end Sys2Proof.Machine
